-- ==== Sys2Proof/Word.lean ====
section
/-! DEFINITION. The words of S3B: 32-bit registers (00_scope.md R8), 64-bit command words (30_encoding.md R100),
bytes of the MAC wire (30_encoding.md R110). All values are unsigned (00_scope.md R9); arithmetic is on natural
numbers and a value is truncated only where it is written (R10). -/

namespace Sys2Proof

/-- A result register or a control and status register: 32 bits (R8). -/
abbrev Word := BitVec 32

/-- A command word: 64 bits (R100). -/
abbrev CmdWord := BitVec 64

/-- One byte of the MAC wire (R110). -/
abbrev Byte := BitVec 8

/-- `v mod 2^32`: a natural number as it is written to a 32-bit register (R10). -/
abbrev word (v : Nat) : Word := BitVec.ofNat 32 v

/-- `v mod 2^8`: a natural number as it is written to a byte (R10). -/
abbrev byte (v : Nat) : Byte := BitVec.ofNat 8 v

end Sys2Proof
end

