-- ==== Sys2Proof/Config.lean ====
section
/-! DEFINITION. What an implementation of S3B fixes: the parameters of 00_scope.md R7, and the values the spec leaves
free (20_memory.md R73). -/

namespace Sys2Proof.Config

/-- `MAX_PRB`: capacity of the PRB bitmap (R7). -/
abbrev maxPrb : Nat := 275

/-- `MAX_RBG`: capacity of the RBG bitmap (R7, 41_rb_allocator.md R161). -/
abbrev maxRbg : Nat := 19

/-- `NSYMB`: OFDM symbols per slot (R7, 45_uci_mux.md R282). -/
abbrev nSymb : Nat := 14

/-- `ID_VALUE`: the constant of CSR `ID` (R7, 10_state.md R30). -/
def idValue : Word := 0x53334230#32

/-- `LBSR_TRUNC_DEFAULT`: the buffer size assumed for a missing entry of a Long Truncated BSR (R7; 90_conflicts.md C1
chooses 63 and keeps the name). -/
def lbsrTruncDefault : Nat := 63

/-- The OPEN capacities of R7. A machine carries its own in `State.params`, so every meaning and every claim
is stated for all of them. -/
structure Params where
  /-- `TB_CAP`, bytes of space `TB`. -/
  tbCap : Nat
  /-- `PL_CAP`, bytes of space `PL`. -/
  plCap : Nat
  /-- `SP_CAP`, entries of the sub-PDU descriptor table. -/
  spCap : Nat
  /-- `G_CAP`, elements of each UCIU bit, position and soft-value memory. -/
  gCap : Nat
deriving DecidableEq, Repr

/-- The constraint R7 puts on each OPEN capacity: `1 <= cap <= 2^32 - 1`. -/
abbrev capOk (cap : Nat) : Prop := 1 ≤ cap ∧ cap ≤ 2 ^ 32 - 1

/-- The constraint of R7 on all four capacities. -/
abbrev Params.ok (p : Params) : Prop := capOk p.tbCap ∧ capOk p.plCap ∧ capOk p.spCap ∧ capOk p.gCap

/-- The capacity of `TB` less one, of the implementation at hand: OPEN in R7, so a constant with no body (log entry 2). -/
opaque tbCapLess1 : Fin 4294967295
/-- The capacity of `PL` less one: OPEN in R7 (log entry 2). -/
opaque plCapLess1 : Fin 4294967295
/-- The capacity of the descriptor table less one: OPEN in R7 (log entry 2). -/
opaque spCapLess1 : Fin 4294967295
/-- The capacity of each UCIU memory less one: OPEN in R7 (log entry 2). -/
opaque gCapLess1 : Fin 4294967295

/-- The capacities of the implementation at hand, each between 1 and `2^32 - 1` (R7). -/
def params : Params :=
  { tbCap := tbCapLess1.val + 1, plCap := plCapLess1.val + 1, spCap := spCapLess1.val + 1, gCap := gCapLess1.val + 1 }

/-- FREE VALUE (R73, log entry 3): what a read of an element with unspecified content returns, before it is cut to the
element's width. The arguments make every read a draw of its own: the serial number of the command, the pass (a command
that reads an element twice draws twice), the space id and the element address. -/
opaque freeElem (serial pass space addr : Nat) : BitVec 32

end Sys2Proof.Config
end

