-- ==== Sys2Proof/Syntax.lean ====
section
/-! DEFINITION. The instructions of S3B: the 38 commands of 30_encoding.md R104 and the three MAC sub-header patterns of
30_encoding.md R111, one constructor per row of spec/opcode_table.json. Operands have the widths R104 gives them, so a
value in a must-be-zero bit cannot be written down. -/

namespace Sys2Proof

/-- The direction flag (10_state.md R34): `dl` is `DIR = 0`, `ul` is `DIR = 1`. -/
inductive Dir where
  | dl
  | ul
deriving DecidableEq, Repr

/-- The RBG configuration flag `cfg` (41_rb_allocator.md R160): `config1` is `cfg = 0`, `config2` is `cfg = 1`. -/
inductive RbgConfig where
  | config1
  | config2
deriving DecidableEq, Repr

/-- The resource-allocation type operand of `RB.GRANT_DECODE` (42_grant_codec.md R200). -/
inductive AllocType where
  | type0
  | type1
deriving DecidableEq, Repr

/-- One constructor per row of the opcode table. -/
inductive Instr where
  /-- `SYS.NOP` (R140). -/
  | sysNop
  /-- `SYS.RESET` (R141). -/
  | sysReset
  /-- `CSR.WR` (R143). -/
  | csrWr (csr : BitVec 8) (value : Word)
  /-- `MEM.WR` (R145). -/
  | memWr (space : BitVec 8) (data : BitVec 16) (addr : Word)
  /-- `MEM.RD` (R147). -/
  | memRd (space : BitVec 8) (addr : Word)
  /-- `MAC.INIT_TX` (R250). -/
  | macInitTx (dir : Dir) (tbLen : Word)
  /-- `MAC.INIT_RX` (R220). -/
  | macInitRx (dir : Dir)
  /-- `MAC.ADD_SDU` (R252). -/
  | macAddSdu (lcid : BitVec 6) (len : BitVec 16) (addr : Word)
  /-- `MAC.ADD_CRNTI_CE` (R256). -/
  | macAddCrntiCe (rnti : BitVec 16)
  /-- `MAC.ADD_SE_PHR_CE` (R258). -/
  | macAddSePhrCe (phr : BitVec 6) (pcmax : BitVec 6)
  /-- `MAC.ADD_SBSR_CE` (R260). -/
  | macAddSbsrCe (lcg : BitVec 3) (bs : BitVec 5)
  /-- `MAC.ADD_CONRES_CE` (R262): the identity is `b || c` (R100). -/
  | macAddConresCe (id : BitVec 48)
  /-- `MAC.PACK` (R266). -/
  | macPack
  /-- `MAC.UNPACK` (R222). -/
  | macUnpack (len : Word)
  /-- `MAC.GET_SUBPDU` (R228). -/
  | macGetSubpdu (index : Word)
  /-- `MAC.GET_LBSR` (R230). -/
  | macGetLbsr (index : Word)
  /-- `MAC.RELEASE` (R268). -/
  | macRelease
  /-- `MAC.CHK_LCID` (R218). -/
  | macChkLcid (lcid : BitVec 6) (dir : Dir)
  /-- `RB.INIT` (R163). -/
  | rbInit (cfg : RbgConfig) (start : BitVec 16) (n : Word)
  /-- `RB.CLEAR` (R165). -/
  | rbClear
  /-- `RB.ADD_INTERVAL` (R167). -/
  | rbAddInterval (start : BitVec 16) (stop : Word)
  /-- `RB.ADD_RBGS` (R169). -/
  | rbAddRbgs (mask : BitVec 19)
  /-- `RB.ADD_GRANT` (R171). -/
  | rbAddGrant
  /-- `RB.COLLIDES` (R173). -/
  | rbCollides
  /-- `RB.FIND_NEXT` (R175). -/
  | rbFindNext (startIdx : BitVec 16) (lastIdx : Word)
  /-- `RB.FIND_LEN` (R177). -/
  | rbFindLen (startIdx : BitVec 16) (nofPrbs : Word)
  /-- `RB.GRANT_SET_INTERVAL` (R190). -/
  | rbGrantSetInterval (start : BitVec 16) (stop : Word)
  /-- `RB.GRANT_SET_RBGS` (R191). -/
  | rbGrantSetRbgs (mask : BitVec 19)
  /-- `RB.GRANT_TYPE` (R192). -/
  | rbGrantType
  /-- `RB.GRANT_GET_PRBS` (R193). -/
  | rbGrantGetPrbs
  /-- `RB.GRANT_GET_RBGS` (R194). -/
  | rbGrantGetRbgs
  /-- `RB.GRANT_ENCODE` (R198). -/
  | rbGrantEncode
  /-- `RB.GRANT_DECODE` (R200). -/
  | rbGrantDecode (type : AllocType) (field : Word)
  /-- `RB.PRB2RBG` (R179). -/
  | rbPrb2Rbg (prb : Word)
  /-- `UCI.GEN_MUX` (R283). -/
  | uciGenMux
  /-- `UCI.MUX` (R292). -/
  | uciMux
  /-- `UCI.SCRAMBLE` (R296). -/
  | uciScramble
  /-- `UCI.DEMUX` (R299). -/
  | uciDemux
  /-- `SUBHDR.1B` (R111): the reserved bit, bit 6, the LCID. -/
  | subhdr1B (r f : Bool) (lcid : BitVec 6)
  /-- `SUBHDR.2B` (R111, R112): the reserved bit, the LCID, the 8-bit length; bit 6 is 0. -/
  | subhdr2B (r : Bool) (lcid : BitVec 6) (len : BitVec 8)
  /-- `SUBHDR.3B` (R111, R112): the reserved bit, the LCID, the 16-bit length; bit 6 is 1. -/
  | subhdr3B (r : Bool) (lcid : BitVec 6) (len : BitVec 16)
deriving DecidableEq, Repr

/-- The three sub-header rows, which stand on the MAC wire and are no command words (30_encoding.md R110). -/
def Instr.isSubHeader : Instr → Bool
  | .subhdr1B _ _ _ => true
  | .subhdr2B _ _ _ => true
  | .subhdr3B _ _ _ => true
  | _ => false

end Sys2Proof
end

