-- ==== Sys2Proof/Machine/State.lean ====
section
/-! DEFINITION. The state of S3B (10_state.md R20): the result registers, the command counter, the status registers, the state
of the three units MACU, RBAU and UCIU, and the memory spaces, all plain data; with them the model's own fields, each marked
so. Reset values are those of 10_state.md R62 and 70_reset_and_hazards.md R350. -/

namespace Sys2Proof.Machine

/-- S3B has no fault: every command word in every state completes with a status code (60_exceptions.md R321, "the sequence is
total"), and errors are next states. So nobody raises a fault, and the type has no constructor. -/
inductive Fault
deriving DecidableEq, Repr

/-- Why a step can be refused. -/
inductive Refusal where
  /-- An instruction that has no meaning yet: raised by its arm of `exec` alone, safe (the run stops). Every instruction of
  the table has its meaning, so no arm raises it. -/
  | notModelled (mnemonic : String)
deriving DecidableEq, Repr

/-- The status codes of 60_exceptions.md R320. -/
inductive Code where
  | ok
  | illegalCmd
  | badOperand
  | badState
  | badIndex
  | malformedPdu
  | unsupportedLcid
  | wrongDir
  | noSpace
  | tableFull
  | reMismatch
  | fVariant
  | fState
  | locked
deriving DecidableEq, Repr

/-- The causes of a fatal error (R320): `F_VARIANT`, and `F_STATE`, which no rule raises. -/
inductive FatalCause where
  | variant
  | state
deriving DecidableEq, Repr

/-- The four result registers `r[0..3]` (10_state.md R21). -/
structure Regs where
  r0 : Word
  r1 : Word
  r2 : Word
  r3 : Word
deriving DecidableEq, Repr

/-- `MAC_CTRL.MODE`, the MACU session state (10_state.md R34). -/
inductive Mode where
  | idle
  | tx
  | rx
  | rxDone
deriving DecidableEq, Repr

/-- One entry of the sub-PDU descriptor table (10_state.md R50). -/
structure Desc where
  lcid : BitVec 6
  f : Bool
  /-- `header_length`, one of 1, 2, 3: two bits (R228 returns it from bit 16 on). -/
  hlen : BitVec 2
  slen : Word
  soff : Word
deriving DecidableEq, Repr

/-- The state of MACU (10_state.md R34, R35, R50). The table holds the valid entries `sp[0..nsub-1]`, so `MAC_NSUB` is its
length. -/
structure Mac where
  mode : Mode
  dir : Dir
  tbLen : Word
  remain : Word
  woff : Word
  sp : List Desc
deriving DecidableEq, Repr

/-- The grant register `GR` (10_state.md R54): exactly one variant is active. -/
inductive Grant where
  /-- `tag = 0`: the RBG mask. -/
  | type0 (mask : BitVec 19)
  /-- `tag = 1`: the half-open PRB interval. -/
  | type1 (start stop : BitVec 9)
deriving DecidableEq, Repr

/-- The state of RBAU (10_state.md R38, R52, R54). -/
structure Rb where
  nprb : BitVec 9
  start : BitVec 9
  cfg : RbgConfig
  p : BitVec 5
  first : BitVec 5
  nrbg : BitVec 5
  prbs : BitVec 275
  rbgs : BitVec 19
  gr : Grant
deriving DecidableEq, Repr

/-- `UCI_GSTATE.S` (10_state.md R48). -/
inductive GState where
  | empty
  | muxed
  | scrambled
deriving DecidableEq, Repr

/-- The configuration and status registers of UCIU (10_state.md R42, R46, R48) and the per-symbol tables (R56). -/
structure Uci where
  l1 : Word
  l1csi : Word
  nl : Word
  qm : Word
  oack : Word
  gack : Word
  gackrvd : Word
  gcsi1 : Word
  gcsi2 : Word
  gulsch : Word
  nofre : Word
  valid : Bool
  gtot : Word
  gstate : GState
  msc : Vector (BitVec 16) 14
  muci : Vector (BitVec 16) 14
deriving DecidableEq, Repr

/-- A memory space whose content is unspecified where nothing was written (20_memory.md R71, R73): the elements that hold a
definite value, by address. An element that is not listed reads as any value (log entry 3). -/
structure Bank (w : Nat) where
  cells : List (Nat × BitVec w)
deriving DecidableEq, Repr

/-- A space in which no element has a definite value. -/
abbrev Bank.empty {w : Nat} : Bank w := ⟨[]⟩

/-- The memory spaces R71 marks `unspecified` at reset. The other four, `PRBS`, `RBGS`, `MSC` and `MUCI`, are the registers of
RBAU and UCIU (20_memory.md R72). -/
structure Memory where
  tb : Bank 8
  pl : Bank 8
  bAck : Bank 2
  bCsi1 : Bank 1
  bCsi2 : Bank 1
  bUlsch : Bank 1
  scr : Bank 1
  gout : Bank 2
  posAck : Bank 32
  posCsi1 : Bank 32
  posCsi2 : Bank 32
  posUlsch : Bank 32
  lin : Bank 8
  lAck : Bank 8
  lCsi1 : Bank 8
  lCsi2 : Bank 8
  lUlsch : Bank 8
deriving DecidableEq, Repr

/-- MODEL's own (log entry 5): the loop variables `off`, `len` and `list` of the parser of 43_mac_parse.md R222. The loop reads
a sub-header while `off < len`. -/
structure Cursor where
  off : Nat
  len : Nat
  list : List Desc
deriving DecidableEq, Repr

/-- No parse is in progress: what the cursor is before and after every command (10_state.md R20). -/
abbrev Cursor.idle : Cursor := ⟨0, 0, []⟩

/-- The machine's state. -/
structure State where
  /-- MODEL's own (log entry 2): the OPEN capacities of 00_scope.md R7; no instruction changes them. -/
  params : Config.Params
  /-- MODEL's own (log entry 1): the command words the host has still to issue, the next one first. -/
  inbox : List CmdWord
  /-- MODEL's own (log entry 3): how many commands were issued, which numbers the draws of unspecified values. -/
  serial : Nat
  /-- MODEL's own (log entry 5): the parse in progress. -/
  cursor : Cursor
  r : Regs
  cseq : Word
  /-- `STATUS.CODE` (10_state.md R31). -/
  status : Code
  /-- `FATAL` (10_state.md R32): `F` is 1 where a cause is held, `CAUSE` is its code. -/
  fatal : Option FatalCause
  mac : Mac
  rb : Rb
  uci : Uci
  mem : Memory
deriving DecidableEq, Repr

/-- The result registers at reset (R62). -/
def Regs.reset : Regs := ⟨0, 0, 0, 0⟩

/-- MACU at reset (R62). -/
def Mac.reset : Mac := { mode := .idle, dir := .dl, tbLen := 0, remain := 0, woff := 0, sp := [] }

/-- RBAU at reset (R62): not initialised, the bitmaps clear, the grant an empty type-1 interval. -/
def Rb.reset : Rb :=
  { nprb := 0, start := 0, cfg := .config1, p := 0, first := 0, nrbg := 0, prbs := 0, rbgs := 0, gr := .type1 0 0 }

/-- UCIU at reset (R62). -/
def Uci.reset : Uci :=
  { l1 := 0, l1csi := 0, nl := 0, qm := 0, oack := 0, gack := 0, gackrvd := 0, gcsi1 := 0, gcsi2 := 0, gulsch := 0,
    nofre := 0, valid := false, gtot := 0, gstate := .empty, msc := Vector.replicate 14 0,
    muci := Vector.replicate 14 0 }

/-- The memory spaces after hardware reset: nothing is specified (R71, R350). -/
def Memory.reset : Memory :=
  { tb := .empty, pl := .empty, bAck := .empty, bCsi1 := .empty, bCsi2 := .empty, bUlsch := .empty, scr := .empty,
    gout := .empty, posAck := .empty, posCsi1 := .empty, posCsi2 := .empty, posUlsch := .empty, lin := .empty,
    lAck := .empty, lCsi1 := .empty, lCsi2 := .empty, lUlsch := .empty }

/-- The machine after hardware reset (10_state.md R62, 70_reset_and_hazards.md R350), with no command issued yet. -/
def State.reset : State :=
  { params := Config.params, inbox := [], serial := 0, cursor := .idle, r := Regs.reset, cseq := 0, status := .ok,
    fatal := none, mac := Mac.reset, rb := Rb.reset, uci := Uci.reset, mem := Memory.reset }

end Sys2Proof.Machine
end

