-- ==== Sys2Proof/Machine/Geometry.lean ====
section
/-! DEFINITION. The arithmetic of RBAU on natural numbers: RBG geometry (41_rb_allocator.md R160, R161), bitmaps and the two
searches (R167, R175, R177), the grant field codes (42_grant_codec.md R196, R197). -/

namespace Sys2Proof.Machine

/-- `ceil(a, b)` (00_scope.md R10). -/
def ceilDiv (a b : Nat) : Nat := (a + b - 1) / b

/-- The nominal RBG size `P` (41_rb_allocator.md R160). -/
def rbgP (n : Nat) : RbgConfig → Nat
  | .config1 => if n ≤ 36 then 2 else if n ≤ 72 then 4 else if n ≤ 144 then 8 else 16
  | .config2 => if n ≤ 36 then 4 else if n ≤ 72 then 8 else if n ≤ 144 then 16 else 16

/-- `rbg_lo(g)` (41_rb_allocator.md R161). -/
def rbgLo (n p first g : Nat) : Nat := if g = 0 then 0 else min (first + (g - 1) * p) n

/-- `rbg_hi(g)` (R161). -/
def rbgHi (n p first g : Nat) : Nat := min (first + g * p) n

/-- The PRBs of RBG `g`, ascending (R161). -/
def rbgPrbs (n p first g : Nat) : List Nat :=
  List.range' (rbgLo n p first g) (rbgHi n p first g - rbgLo n p first g)

/-- `prb_to_rbg_idx(prb) = (prb + P - first) div P` (R161). -/
def prbToRbg (p first prb : Nat) : Nat := (prb + p - first) / p

/-- The bitmap with the bits of the list set; the others keep their value. -/
def setBits {w : Nat} (bm : BitVec w) (ps : List Nat) : BitVec w :=
  ps.foldl (fun b p => b ||| BitVec.twoPow w p) bm

/-- `find_next(s0, last)` (R175): the first maximal run of clear bits that begins at or after `s0` and before
`min(n, last)`, or none. -/
def findNext (prbs : BitVec 275) (n s0 last : Nat) : Option (Nat × Nat) :=
  let hi := min n last
  match (List.range' s0 (hi - s0)).find? (fun p => !prbs.getLsbD p) with
  | none => none
  | some s => some (s, ((List.range' (s + 1) (hi - (s + 1))).find? (fun q => prbs.getLsbD q)).getD hi)

/-- The loop of R177: `best` is the longest gap seen. The answer is the interval and whether it has the requested length.
Every pass moves `s0` up, so `fuel = n + 1` passes reach the end. -/
def findLenLoop (prbs : BitVec 275) (n len : Nat) : (fuel s0 : Nat) → (best : Nat × Nat) → (Nat × Nat) × Bool
  | 0, _, best => (best, false)
  | fuel + 1, s0, best =>
    if s0 < n then
      match findNext prbs n s0 n with
      | none => (best, false)
      | some (a, b) =>
        if b - a ≥ len then ((a, a + len), true)
        else findLenLoop prbs n len fuel (b + 1) (if b - a > best.2 - best.1 then (a, b) else best)
    else (best, false)

/-- `find_empty_interval_of_length` (R177). -/
def findLen (prbs : BitVec 275) (n s0 len : Nat) : (Nat × Nat) × Bool :=
  findLenLoop prbs n len (n + 1) s0 (0, 0)

/-- `bit_length(v)`: the number of bits of `v`, 0 for 0. -/
def bitLength (v : Nat) : Nat := if v = 0 then 0 else Nat.log2 v + 1

/-- The `k` low bits of `m` in the opposite order: bit `k-1-g` of the result is bit `g` of `m`, which takes an RBG mask to its
type-0 field and back (42_grant_codec.md R196, R198, R200). -/
def reverseBits (k m : Nat) : Nat :=
  (List.range k).foldl (fun f g => if m.testBit g then f ||| (1 <<< (k - 1 - g)) else f) 0

/-- `RIV(n, S, L)` (42_grant_codec.md R197). -/
def riv (n s l : Nat) : Nat := if l - 1 ≤ n / 2 then n * (l - 1) + s else n * (n - l + 1) + (n - 1 - s)

/-- The number of codes of the type-1 field: `n(n+1)/2` (R197). -/
def rivCount (n : Nat) : Nat := n * (n + 1) / 2

/-- The width of the type-1 field: `bit_length(n(n+1)/2 - 1)` (R197). -/
def rivWidth (n : Nat) : Nat := bitLength (rivCount n - 1)

/-- The inverse of `RIV` (R197): the start and the length. -/
def rivInverse (n v : Nat) : Nat × Nat :=
  let a := v / n + 1
  let b := v % n
  if a + b ≤ n then (b, a) else (n - 1 - b, n - a + 2)

/-- `prb_to_rbg_idx` under the geometry of RBAU (10_state.md R38, R161). -/
def Rb.toRbg (rb : Rb) (prb : Nat) : Nat := prbToRbg rb.p.toNat rb.first.toNat prb

/-- The bitmaps with the interval `start <= p < stop` added: the PRBs, and the RBG of each of them (R167). -/
def Rb.addInterval (rb : Rb) (start stop : Nat) : Rb :=
  { rb with
    prbs := setBits rb.prbs (List.range' start (stop - start))
    rbgs := setBits rb.rbgs ((List.range' start (stop - start)).map rb.toRbg) }

/-- The RBGs of the BWP that are in the mask, ascending. -/
def Rb.maskRbgs (rb : Rb) (mask : BitVec 19) : List Nat := (List.range rb.nrbg.toNat).filter (fun g => mask.getLsbD g)

/-- The bitmaps with the RBGs of the mask added: the RBGs, and every PRB of each of them (R169). -/
def Rb.addRbgs (rb : Rb) (mask : BitVec 19) : Rb :=
  { rb with
    rbgs := setBits rb.rbgs (rb.maskRbgs mask)
    prbs := setBits rb.prbs ((rb.maskRbgs mask).flatMap (rbgPrbs rb.nprb.toNat rb.p.toNat rb.first.toNat)) }

/-- The grant fits the BWP: the mask has no bit at or above `nrbg`, the interval ends at or before `n` (R171). -/
def Rb.grantFits (rb : Rb) : Grant → Bool
  | .type0 mask => mask.toNat < 2 ^ rb.nrbg.toNat
  | .type1 _ stop => stop.toNat ≤ rb.nprb.toNat

/-- The bitmaps with the grant added, by the procedure of its active variant (R171). -/
def Rb.addGrant (rb : Rb) : Grant → Rb
  | .type0 mask => rb.addRbgs mask
  | .type1 start stop => rb.addInterval start.toNat stop.toNat

/-- The collision test (R173): a type-0 grant against `RBGS`, a type-1 grant against `PRBS`. -/
def Rb.collides (rb : Rb) : Grant → Bool
  | .type0 mask => (List.range rb.nrbg.toNat).any (fun g => rb.rbgs.getLsbD g && mask.getLsbD g)
  | .type1 start stop => (List.range' start.toNat (stop.toNat - start.toNat)).any (fun p => rb.prbs.getLsbD p)

/-- Both bitmaps clear; geometry and grant as they are (R165). -/
def Rb.clear (rb : Rb) : Rb := { rb with prbs := 0, rbgs := 0 }

/-- RBAU with the geometry of a BWP of `n` PRBs from carrier PRB `start` on, the bitmaps clear, the grant as it is (R163). -/
def Rb.init (rb : Rb) (cfg : RbgConfig) (start n : Nat) : Rb :=
  let p := rbgP n cfg
  { rb with
    nprb := BitVec.ofNat 9 n
    start := BitVec.ofNat 9 start
    cfg := cfg
    p := BitVec.ofNat 5 p
    first := BitVec.ofNat 5 (p - start % p)
    nrbg := BitVec.ofNat 5 (ceilDiv (n + start % p) p)
    prbs := 0
    rbgs := 0 }

/-- The grant decoded from a field code (42_grant_codec.md R200). -/
def Rb.decodeGrant (rb : Rb) (type : AllocType) (field : Nat) : Grant :=
  match type with
  | .type0 => .type0 (BitVec.ofNat 19 (reverseBits rb.nrbg.toNat field))
  | .type1 =>
    let sl := rivInverse rb.nprb.toNat field
    .type1 (BitVec.ofNat 9 sl.1) (BitVec.ofNat 9 (sl.1 + sl.2))

/-- The field code of a grant and its width in bits (42_grant_codec.md R198). -/
def Rb.encodeGrant (rb : Rb) : Grant → Nat × Nat
  | .type0 mask => (reverseBits rb.nrbg.toNat mask.toNat, rb.nrbg.toNat)
  | .type1 start stop => (riv rb.nprb.toNat start.toNat (stop.toNat - start.toNat), rivWidth rb.nprb.toNat)

/-- A grant has a field code: it fits the BWP, and an interval is not empty (R198). -/
def Rb.encodable (rb : Rb) : Grant → Bool
  | .type0 mask => mask.toNat < 2 ^ rb.nrbg.toNat
  | .type1 start stop => 1 ≤ stop.toNat - start.toNat && stop.toNat ≤ rb.nprb.toNat

/-- A field value is the code of a grant of the given type (R200). -/
def Rb.decodable (rb : Rb) (type : AllocType) (field : Nat) : Bool :=
  match type with
  | .type0 => field < 2 ^ rb.nrbg.toNat
  | .type1 => field < rivCount rb.nprb.toNat

end Sys2Proof.Machine
end

