-- ==== Sys2Proof/Machine/Lcid.lean ====
section
/-! DEFINITION. The LCID tables both directions of the MAC codec share (43_mac_parse.md R211 to R215). -/

namespace Sys2Proof.Machine

/-- The classes `MAC.CHK_LCID` reports (R211). -/
inductive LcidClass where
  | invalid
  | sdu
  | ulCcch
  | fixedCe
  | varCe
  | padding
  | unsupported
deriving DecidableEq, Repr

/-- The code of a class in `r[1]` of `MAC.CHK_LCID` (R211). -/
def LcidClass.code : LcidClass → Nat
  | .invalid => 0
  | .sdu => 1
  | .ulCcch => 2
  | .fixedCe => 3
  | .varCe => 4
  | .padding => 5
  | .unsupported => 6

/-- `is_valid_lcid` (R212): reserved are 33..51 on UL and 33..46 on DL. -/
def isValidLcid (lcid : Nat) : Dir → Bool
  | .ul => lcid ≤ 32 || 52 ≤ lcid
  | .dl => lcid ≤ 32 || 47 ≤ lcid

/-- `is_ul_ccch` (R213). -/
def isUlCcch (lcid : Nat) : Dir → Bool
  | .ul => lcid == 0 || lcid == 52
  | .dl => false

/-- `is_sdu` (R213). -/
def isSdu (lcid : Nat) (dir : Dir) : Bool := lcid ≤ 32 && !isUlCcch lcid dir

/-- `is_var_ce` (R213). -/
def isVarCe (lcid : Nat) : Dir → Bool
  | .ul => lcid == 60 || lcid == 62
  | .dl => false

/-- `has_length` (R213): the sub-header carries the length field. -/
def hasLength (lcid : Nat) (dir : Dir) : Bool := isSdu lcid dir || isVarCe lcid dir

/-- `CE_SIZE(lcid, dir)` (R214), defined for exactly the pairs of that rule. -/
def ceSize (lcid : Nat) : Dir → Option Nat
  | .ul =>
    if lcid = 0 then some 8 else if lcid = 52 then some 6 else if lcid = 57 then some 2 else if lcid = 58 then some 2
    else if lcid = 59 then some 1 else if lcid = 61 then some 1 else none
  | .dl => if lcid = 60 then some 0 else if lcid = 61 then some 1 else if lcid = 62 then some 6 else none

/-- The class of `(lcid, dir)`: the first test that applies (R215). -/
def lcidClass (lcid : Nat) (dir : Dir) : LcidClass :=
  if !isValidLcid lcid dir then .invalid
  else if isSdu lcid dir then .sdu
  else if isUlCcch lcid dir then .ulCcch
  else if isVarCe lcid dir then .varCe
  else if lcid = 63 then .padding
  else if (ceSize lcid dir).isSome then .fixedCe
  else .unsupported

end Sys2Proof.Machine
end

