-- ==== Sys2Proof/WellFormed.lean ====
section
/-! DEFINITION. Which instructions exist. A command's operands have exactly the widths of 30_encoding.md R104, so every
command is well formed. A sub-header pattern must fit its LCID in some direction (30_encoding.md R111 and the notes of
spec/opcode_table.json): one byte where the LCID carries no length, two or three where it carries one. -/

namespace Sys2Proof

/-- The LCID carries a length field in at least one direction (43_mac_parse.md R213). -/
def carriesLength (lcid : BitVec 6) : Bool :=
  Machine.hasLength lcid.toNat .ul || Machine.hasLength lcid.toNat .dl

/-- The LCID carries no length field in at least one direction (43_mac_parse.md R213). -/
def lacksLength (lcid : BitVec 6) : Bool :=
  !(Machine.hasLength lcid.toNat .ul && Machine.hasLength lcid.toNat .dl)

/-- The well-formedness check of an instruction. -/
def Instr.wellFormed : Instr → Bool
  | .subhdr1B _ _ lcid => lacksLength lcid
  | .subhdr2B _ lcid _ => carriesLength lcid
  | .subhdr3B _ lcid _ => carriesLength lcid
  | .sysNop | .sysReset | .csrWr .. | .memWr .. | .memRd .. => true
  | .macInitTx .. | .macInitRx .. | .macAddSdu .. | .macAddCrntiCe .. | .macAddSePhrCe .. => true
  | .macAddSbsrCe .. | .macAddConresCe .. | .macPack | .macUnpack .. | .macGetSubpdu .. => true
  | .macGetLbsr .. | .macRelease | .macChkLcid .. => true
  | .rbInit .. | .rbClear | .rbAddInterval .. | .rbAddRbgs .. | .rbAddGrant | .rbCollides => true
  | .rbFindNext .. | .rbFindLen .. | .rbGrantSetInterval .. | .rbGrantSetRbgs .. | .rbGrantType => true
  | .rbGrantGetPrbs | .rbGrantGetRbgs | .rbGrantEncode | .rbGrantDecode .. | .rbPrb2Rbg .. => true
  | .uciGenMux | .uciMux | .uciScramble | .uciDemux => true

end Sys2Proof
end

