-- ==== Sys2Proof/Decode.lean ====
section
/-! DEFINITION. Decoding and encoding. `decode` reads a 64-bit command word (30_encoding.md R100 to R106), total and without
state; `decodeSubHeader` reads the bytes of a MAC sub-header (R110 to R113). The encoders are written from the same tables. -/

namespace Sys2Proof

/-- Why bits are no instruction. -/
inductive Illegal where
  /-- The `op` value is not in the table of R104 (R106). -/
  | unknownOp
  /-- An unused field or a must-be-zero bit is not zero (R101, R106). -/
  | reservedBits
  /-- The bytes are none of the three sub-header patterns of R111. -/
  | notASubHeader
deriving DecidableEq, Repr

/-- Field `op = w[63:56]` (R100). -/
def opField (w : CmdWord) : BitVec 8 := w.extractLsb' 56 8
/-- Field `a = w[55:48]` (R100). -/
def aField (w : CmdWord) : BitVec 8 := w.extractLsb' 48 8
/-- Field `b = w[47:32]` (R100). -/
def bField (w : CmdWord) : BitVec 16 := w.extractLsb' 32 16
/-- Field `c = w[31:0]` (R100). -/
def cField (w : CmdWord) : Word := w.extractLsb' 0 32

/-- The command word with the four fields given (R100). -/
def packWord (op a : BitVec 8) (b : BitVec 16) (c : Word) : CmdWord := op ++ a ++ b ++ c

/-- A direction bit: 1 is UL (R104, 10_state.md R34). -/
def dirOfBit (b : BitVec 1) : Dir := if b = 1#1 then .ul else .dl
/-- The bit of a direction (R104). -/
def bitOfDir : Dir → BitVec 1
  | .ul => 1#1
  | .dl => 0#1
/-- The `cfg` bit (41_rb_allocator.md R160). -/
def cfgOfBit (b : BitVec 1) : RbgConfig := if b = 1#1 then .config2 else .config1
/-- The bit of a configuration flag (R160). -/
def bitOfCfg : RbgConfig → BitVec 1
  | .config1 => 0#1
  | .config2 => 1#1
/-- The `type` bit of `RB.GRANT_DECODE` (42_grant_codec.md R200). -/
def typeOfBit (b : BitVec 1) : AllocType := if b = 1#1 then .type1 else .type0
/-- The bit of an allocation type (R200). -/
def bitOfType : AllocType → BitVec 1
  | .type0 => 0#1
  | .type1 => 1#1

/-- A row whose unused fields and must-be-zero bits are required to be zero (R101). -/
def withZeros (zeros : Bool) (i : Instr) : Except Illegal Instr := if zeros then .ok i else .error .reservedBits

/-- The row of `op` with its requirements on the fields (R101, R102, R104). -/
def decodeFields (op a : BitVec 8) (b : BitVec 16) (c : Word) : Except Illegal Instr :=
  match op.toNat with
  | 0x00 => withZeros (a = 0 && b = 0 && c = 0) .sysNop
  | 0x01 => withZeros (a = 0 && b = 0 && c = 0) .sysReset
  | 0x02 => withZeros (b = 0) (.csrWr a c)
  | 0x03 => .ok (.memWr a b c)
  | 0x04 => withZeros (b = 0) (.memRd a c)
  | 0x10 => withZeros (a.extractLsb' 1 7 = 0 && b = 0) (.macInitTx (dirOfBit (a.extractLsb' 0 1)) c)
  | 0x11 => withZeros (a.extractLsb' 1 7 = 0 && b = 0 && c = 0) (.macInitRx (dirOfBit (a.extractLsb' 0 1)))
  | 0x12 => withZeros (a.extractLsb' 6 2 = 0) (.macAddSdu (a.extractLsb' 0 6) b c)
  | 0x13 => withZeros (a = 0 && b = 0 && c.extractLsb' 16 16 = 0) (.macAddCrntiCe (c.extractLsb' 0 16))
  | 0x14 => withZeros (a.extractLsb' 6 2 = 0 && b.extractLsb' 6 10 = 0 && c = 0)
      (.macAddSePhrCe (a.extractLsb' 0 6) (b.extractLsb' 0 6))
  | 0x15 => withZeros (a.extractLsb' 3 5 = 0 && b.extractLsb' 5 11 = 0 && c = 0)
      (.macAddSbsrCe (a.extractLsb' 0 3) (b.extractLsb' 0 5))
  | 0x16 => withZeros (a = 0) (.macAddConresCe (b ++ c))
  | 0x17 => withZeros (a = 0 && b = 0 && c = 0) .macPack
  | 0x18 => withZeros (a = 0 && b = 0) (.macUnpack c)
  | 0x19 => withZeros (a = 0 && b = 0) (.macGetSubpdu c)
  | 0x1A => withZeros (a = 0 && b = 0) (.macGetLbsr c)
  | 0x1B => withZeros (a = 0 && b = 0 && c = 0) .macRelease
  | 0x1C => withZeros (a.extractLsb' 6 2 = 0 && b.extractLsb' 1 15 = 0 && c = 0)
      (.macChkLcid (a.extractLsb' 0 6) (dirOfBit (b.extractLsb' 0 1)))
  | 0x20 => withZeros (a.extractLsb' 1 7 = 0) (.rbInit (cfgOfBit (a.extractLsb' 0 1)) b c)
  | 0x21 => withZeros (a = 0 && b = 0 && c = 0) .rbClear
  | 0x22 => withZeros (a = 0) (.rbAddInterval b c)
  | 0x23 => withZeros (a = 0 && b = 0 && c.extractLsb' 19 13 = 0) (.rbAddRbgs (c.extractLsb' 0 19))
  | 0x24 => withZeros (a = 0 && b = 0 && c = 0) .rbAddGrant
  | 0x25 => withZeros (a = 0 && b = 0 && c = 0) .rbCollides
  | 0x26 => withZeros (a = 0) (.rbFindNext b c)
  | 0x27 => withZeros (a = 0) (.rbFindLen b c)
  | 0x28 => withZeros (a = 0) (.rbGrantSetInterval b c)
  | 0x29 => withZeros (a = 0 && b = 0 && c.extractLsb' 19 13 = 0) (.rbGrantSetRbgs (c.extractLsb' 0 19))
  | 0x2A => withZeros (a = 0 && b = 0 && c = 0) .rbGrantType
  | 0x2B => withZeros (a = 0 && b = 0 && c = 0) .rbGrantGetPrbs
  | 0x2C => withZeros (a = 0 && b = 0 && c = 0) .rbGrantGetRbgs
  | 0x2D => withZeros (a = 0 && b = 0 && c = 0) .rbGrantEncode
  | 0x2E => withZeros (a.extractLsb' 1 7 = 0 && b = 0) (.rbGrantDecode (typeOfBit (a.extractLsb' 0 1)) c)
  | 0x2F => withZeros (a = 0 && b = 0) (.rbPrb2Rbg c)
  | 0x30 => withZeros (a = 0 && b = 0 && c = 0) .uciGenMux
  | 0x31 => withZeros (a = 0 && b = 0 && c = 0) .uciMux
  | 0x32 => withZeros (a = 0 && b = 0 && c = 0) .uciScramble
  | 0x33 => withZeros (a = 0 && b = 0 && c = 0) .uciDemux
  | _ => .error .unknownOp

/-- `decode(w)` of a command word: total, and a function of the word alone (R102). -/
def decode (w : CmdWord) : Except Illegal Instr := decodeFields (opField w) (aField w) (bField w) (cField w)

/-- The sub-header the given bytes are, the first byte first: `h[7] = R`, `h[6] = F`, `h[5:0] = LCID`, then the length
bytes, most significant first (R110 to R112). Two bytes need `F = 0`, three `F = 1` (R111). -/
def decodeSubHeader : List Byte → Except Illegal Instr
  | [h] => .ok (.subhdr1B (h.getLsbD 7) (h.getLsbD 6) (h.extractLsb' 0 6))
  | [h, n] =>
    if h.getLsbD 6 then .error .notASubHeader else .ok (.subhdr2B (h.getLsbD 7) (h.extractLsb' 0 6) n)
  | [h, n1, n0] =>
    if h.getLsbD 6 then .ok (.subhdr3B (h.getLsbD 7) (h.extractLsb' 0 6) (n1 ++ n0)) else .error .notASubHeader
  | _ => .error .notASubHeader

/-- The first byte of a sub-header (R110). -/
def headerByte (r f : Bool) (lcid : BitVec 6) : Byte := BitVec.ofBool r ++ BitVec.ofBool f ++ lcid

/-- An encoded instruction: a command word, or the bytes of a sub-header on the wire. -/
inductive Encoding where
  | command (w : CmdWord)
  | wire (bytes : List Byte)
deriving DecidableEq, Repr

/-- The encoding of an instruction (R104, R110 to R112). -/
def encode : Instr → Encoding
  | .sysNop => .command (packWord 0x00 0 0 0)
  | .sysReset => .command (packWord 0x01 0 0 0)
  | .csrWr csr value => .command (packWord 0x02 csr 0 value)
  | .memWr space data addr => .command (packWord 0x03 space data addr)
  | .memRd space addr => .command (packWord 0x04 space 0 addr)
  | .macInitTx dir tbLen => .command (packWord 0x10 (0#7 ++ bitOfDir dir) 0 tbLen)
  | .macInitRx dir => .command (packWord 0x11 (0#7 ++ bitOfDir dir) 0 0)
  | .macAddSdu lcid len addr => .command (packWord 0x12 (0#2 ++ lcid) len addr)
  | .macAddCrntiCe rnti => .command (packWord 0x13 0 0 (0#16 ++ rnti))
  | .macAddSePhrCe phr pcmax => .command (packWord 0x14 (0#2 ++ phr) (0#10 ++ pcmax) 0)
  | .macAddSbsrCe lcg bs => .command (packWord 0x15 (0#5 ++ lcg) (0#11 ++ bs) 0)
  | .macAddConresCe id => .command (packWord 0x16 0 (id.extractLsb' 32 16) (id.extractLsb' 0 32))
  | .macPack => .command (packWord 0x17 0 0 0)
  | .macUnpack len => .command (packWord 0x18 0 0 len)
  | .macGetSubpdu index => .command (packWord 0x19 0 0 index)
  | .macGetLbsr index => .command (packWord 0x1A 0 0 index)
  | .macRelease => .command (packWord 0x1B 0 0 0)
  | .macChkLcid lcid dir => .command (packWord 0x1C (0#2 ++ lcid) (0#15 ++ bitOfDir dir) 0)
  | .rbInit cfg start n => .command (packWord 0x20 (0#7 ++ bitOfCfg cfg) start n)
  | .rbClear => .command (packWord 0x21 0 0 0)
  | .rbAddInterval start stop => .command (packWord 0x22 0 start stop)
  | .rbAddRbgs mask => .command (packWord 0x23 0 0 (0#13 ++ mask))
  | .rbAddGrant => .command (packWord 0x24 0 0 0)
  | .rbCollides => .command (packWord 0x25 0 0 0)
  | .rbFindNext startIdx lastIdx => .command (packWord 0x26 0 startIdx lastIdx)
  | .rbFindLen startIdx nofPrbs => .command (packWord 0x27 0 startIdx nofPrbs)
  | .rbGrantSetInterval start stop => .command (packWord 0x28 0 start stop)
  | .rbGrantSetRbgs mask => .command (packWord 0x29 0 0 (0#13 ++ mask))
  | .rbGrantType => .command (packWord 0x2A 0 0 0)
  | .rbGrantGetPrbs => .command (packWord 0x2B 0 0 0)
  | .rbGrantGetRbgs => .command (packWord 0x2C 0 0 0)
  | .rbGrantEncode => .command (packWord 0x2D 0 0 0)
  | .rbGrantDecode type field => .command (packWord 0x2E (0#7 ++ bitOfType type) 0 field)
  | .rbPrb2Rbg prb => .command (packWord 0x2F 0 0 prb)
  | .uciGenMux => .command (packWord 0x30 0 0 0)
  | .uciMux => .command (packWord 0x31 0 0 0)
  | .uciScramble => .command (packWord 0x32 0 0 0)
  | .uciDemux => .command (packWord 0x33 0 0 0)
  | .subhdr1B r f lcid => .wire [headerByte r f lcid]
  | .subhdr2B r lcid len => .wire [headerByte r false lcid, len]
  | .subhdr3B r lcid len => .wire [headerByte r true lcid, len.extractLsb' 8 8, len.extractLsb' 0 8]

/-- Decoding of either kind of encoding. -/
def decodeEncoding : Encoding → Except Illegal Instr
  | .command w => decode w
  | .wire bytes => decodeSubHeader bytes

/-- The bytes of a sub-header row of `nbits` bits, numbered as the table numbers them: the first byte is the most significant
(the rows' notes: "first byte is bits 15:8", "first byte is bits 23:16"). -/
def wireBytes (nbits w : Nat) : List Byte :=
  match nbits with
  | 8 => [byte w]
  | 16 => [byte (w / 256), byte w]
  | 24 => [byte (w / 65536), byte (w / 256), byte w]
  | _ => []

/-- The instruction the decoder reads from bits numbered as spec/opcode_table.json numbers them: rows of 8, 16 and 24 bits are
the sub-headers, every other row is a 64-bit command word. -/
def decodeTableWord (nbits w : Nat) : Option Instr :=
  match wireBytes nbits w with
  | [] => (decode (BitVec.ofNat 64 w)).toOption
  | bytes => (decodeSubHeader bytes).toOption

end Sys2Proof
end

