-- ==== Sys2Proof/Machine/Operands.lean ====
section
/-! DEFINITION. The operand forms that name a place: memory space ids with their widths, sizes and access rights
(20_memory.md R71) and CSR numbers with theirs (10_state.md R28). Every other operand is a number (30_encoding.md R100). -/

namespace Sys2Proof.Machine

/-- The memory spaces of 20_memory.md R71. -/
inductive Space where
  | tb
  | pl
  | prbs
  | rbgs
  | msc
  | muci
  | bAck
  | bCsi1
  | bCsi2
  | bUlsch
  | scr
  | gout
  | posAck
  | posCsi1
  | posCsi2
  | posUlsch
  | lin
  | lAck
  | lCsi1
  | lCsi2
  | lUlsch
deriving DecidableEq, Repr

/-- The id of a space (R71). -/
def Space.id : Space → Nat
  | .tb => 0
  | .pl => 1
  | .prbs => 2
  | .rbgs => 3
  | .msc => 4
  | .muci => 5
  | .bAck => 6
  | .bCsi1 => 7
  | .bCsi2 => 8
  | .bUlsch => 9
  | .scr => 10
  | .gout => 11
  | .posAck => 12
  | .posCsi1 => 13
  | .posCsi2 => 14
  | .posUlsch => 15
  | .lin => 16
  | .lAck => 17
  | .lCsi1 => 18
  | .lCsi2 => 19
  | .lUlsch => 20

/-- The space of an id; ids 21 to 255 do not exist (20_memory.md R75). -/
def spaceOfId (n : Nat) : Option Space :=
  match n with
  | 0 => some .tb
  | 1 => some .pl
  | 2 => some .prbs
  | 3 => some .rbgs
  | 4 => some .msc
  | 5 => some .muci
  | 6 => some .bAck
  | 7 => some .bCsi1
  | 8 => some .bCsi2
  | 9 => some .bUlsch
  | 10 => some .scr
  | 11 => some .gout
  | 12 => some .posAck
  | 13 => some .posCsi1
  | 14 => some .posCsi2
  | 15 => some .posUlsch
  | 16 => some .lin
  | 17 => some .lAck
  | 18 => some .lCsi1
  | 19 => some .lCsi2
  | 20 => some .lUlsch
  | _ => none

/-- The element width of a space in bits (R71). -/
def Space.width : Space → Nat
  | .tb | .pl => 8
  | .prbs | .rbgs => 1
  | .msc | .muci => 16
  | .bAck => 2
  | .bCsi1 | .bCsi2 | .bUlsch | .scr => 1
  | .gout => 2
  | .posAck | .posCsi1 | .posCsi2 | .posUlsch => 32
  | .lin | .lAck | .lCsi1 | .lCsi2 | .lUlsch => 8

/-- The size of a space in elements (R71). -/
def Space.size (p : Config.Params) : Space → Nat
  | .tb => p.tbCap
  | .pl => p.plCap
  | .prbs => Config.maxPrb
  | .rbgs => Config.maxRbg
  | .msc | .muci => Config.nSymb
  | .bAck | .bCsi1 | .bCsi2 | .bUlsch | .scr | .gout => p.gCap
  | .posAck | .posCsi1 | .posCsi2 | .posUlsch => p.gCap
  | .lin | .lAck | .lCsi1 | .lCsi2 | .lUlsch => p.gCap

/-- The spaces `MEM.WR` may write: ids 0, 1, 4 to 10 and 16 (40_system_commands.md R145). -/
def Space.hostWritable : Space → Bool
  | .tb | .pl | .msc | .muci | .bAck | .bCsi1 | .bCsi2 | .bUlsch | .scr | .lin => true
  | .prbs | .rbgs | .gout | .posAck | .posCsi1 | .posCsi2 | .posUlsch | .lAck | .lCsi1 | .lCsi2 | .lUlsch => false

/-- The CSR numbers of the table of 10_state.md R28. -/
def csrExists (n : Nat) : Bool :=
  n ≤ 0x03 || (0x10 ≤ n && n ≤ 0x14) || (0x20 ≤ n && n ≤ 0x26) || (0x30 ≤ n && n ≤ 0x3D)

/-- The CSRs that accept a write: `0x30` to `0x3A` (10_state.md R28, 40_system_commands.md R143). -/
def csrWritable (n : Nat) : Bool := 0x30 ≤ n && n ≤ 0x3A

end Sys2Proof.Machine
end

