-- ==== Sys2Proof/Machine/Flags.lean ====
section
/-! DEFINITION. The status codes, the three flags `FATAL.F`, `UCI_VALID.V` and `UCI_GSTATE.S` (10_state.md R26), and the values
the host reads from the registers (10_state.md R28 to R48, 20_memory.md R79). -/

namespace Sys2Proof.Machine

/-- The value of a status code in `STATUS.CODE` (60_exceptions.md R320). -/
def Code.value : Code → Nat
  | .ok => 0x00
  | .illegalCmd => 0x10
  | .badOperand => 0x11
  | .badState => 0x12
  | .badIndex => 0x13
  | .malformedPdu => 0x14
  | .unsupportedLcid => 0x15
  | .wrongDir => 0x16
  | .noSpace => 0x20
  | .tableFull => 0x21
  | .reMismatch => 0x22
  | .fVariant => 0xF0
  | .fState => 0xF1
  | .locked => 0xFF

/-- The status code of a fatal cause (R320). -/
def FatalCause.code : FatalCause → Code
  | .variant => .fVariant
  | .state => .fState

/-- `MAC_CTRL.MODE` as a number (10_state.md R34). -/
def Mode.value : Mode → Nat
  | .idle => 0
  | .tx => 1
  | .rx => 2
  | .rxDone => 3

/-- `MAC_CTRL.DIR` as a number (10_state.md R34). -/
def dirValue : Dir → Nat
  | .dl => 0
  | .ul => 1

/-- `RB_CFG` as a number (10_state.md R38). -/
def cfgValue : RbgConfig → Nat
  | .config1 => 0
  | .config2 => 1

/-- `GR.tag` (10_state.md R54). -/
def Grant.tag : Grant → Nat
  | .type0 _ => 0
  | .type1 _ _ => 1

/-- `UCI_GSTATE.S` as a number (10_state.md R48). -/
def GState.value : GState → Nat
  | .empty => 0
  | .muxed => 1
  | .scrambled => 2

/-- `FATAL` as a number (10_state.md R32): `F` in bit 0, `CAUSE` in bits 15:8. -/
def fatalValue : Option FatalCause → Nat
  | none => 0
  | some c => 1 + 256 * c.code.value

/-- A change of the UCIU configuration clears `UCI_VALID.V`, `UCI_GTOT` and `UCI_GSTATE.S` (10_state.md R42, R56;
40_system_commands.md R143, R145). -/
def Uci.invalidate (u : Uci) : Uci := { u with valid := false, gtot := 0, gstate := .empty }

/-- `csr[n] <- v` for the writable CSRs (10_state.md R42); any other number writes nothing. -/
def Uci.writeCfg (u : Uci) (n : Nat) (v : Word) : Uci :=
  match n with
  | 0x30 => { u with l1 := v }
  | 0x31 => { u with l1csi := v }
  | 0x32 => { u with nl := v }
  | 0x33 => { u with qm := v }
  | 0x34 => { u with oack := v }
  | 0x35 => { u with gack := v }
  | 0x36 => { u with gackrvd := v }
  | 0x37 => { u with gcsi1 := v }
  | 0x38 => { u with gcsi2 := v }
  | 0x39 => { u with gulsch := v }
  | 0x3A => { u with nofre := v }
  | _ => u

/-- The host's register read of CSR `n` (20_memory.md R79, 10_state.md R28): no side effect; a number that does not exist
reads as 0. -/
def State.csrRead (s : State) (n : BitVec 8) : Word :=
  match n.toNat with
  | 0x00 => Config.idValue
  | 0x01 => word s.status.value
  | 0x02 => word (fatalValue s.fatal)
  | 0x03 => s.cseq
  | 0x10 => word (s.mac.mode.value + 16 * dirValue s.mac.dir)
  | 0x11 => s.mac.tbLen
  | 0x12 => s.mac.remain
  | 0x13 => s.mac.woff
  | 0x14 => word s.mac.sp.length
  | 0x20 => s.rb.nprb.setWidth 32
  | 0x21 => s.rb.start.setWidth 32
  | 0x22 => word (cfgValue s.rb.cfg)
  | 0x23 => s.rb.p.setWidth 32
  | 0x24 => s.rb.first.setWidth 32
  | 0x25 => s.rb.nrbg.setWidth 32
  | 0x26 => word s.rb.gr.tag
  | 0x30 => s.uci.l1
  | 0x31 => s.uci.l1csi
  | 0x32 => s.uci.nl
  | 0x33 => s.uci.qm
  | 0x34 => s.uci.oack
  | 0x35 => s.uci.gack
  | 0x36 => s.uci.gackrvd
  | 0x37 => s.uci.gcsi1
  | 0x38 => s.uci.gcsi2
  | 0x39 => s.uci.gulsch
  | 0x3A => s.uci.nofre
  | 0x3B => word s.uci.valid.toNat
  | 0x3C => s.uci.gtot
  | 0x3D => word s.uci.gstate.value
  | _ => 0

/-- The host's register read of `r[i]` (20_memory.md R79, 10_state.md R21). -/
def State.regRead (s : State) (i : Fin 4) : Word :=
  match i with
  | 0 => s.r.r0
  | 1 => s.r.r1
  | 2 => s.r.r2
  | 3 => s.r.r3

end Sys2Proof.Machine
end

