-- ==== Sys2Proof/Machine/Ops.lean ====
section
/-! DEFINITION. The shared operations: the memory primitives (20_memory.md R70), the completion of a command with its raises and
fatal errors (60_exceptions.md R321, R322, R326), the reset (70_reset_and_hazards.md R350), the append procedure of the serializer
(44_mac_pack.md R251) and the loop of the deserializer (43_mac_parse.md R222). -/

namespace Sys2Proof.Machine

/-! ## Memory -/

/-- The definite value listed at an address. -/
def cellAt {w : Nat} : List (Nat × BitVec w) → Nat → Option (BitVec w)
  | [], _ => none
  | (k, v) :: rest, a => if k = a then some v else cellAt rest a

/-- The list with the value at an address replaced or added, the addresses kept rising. -/
def cellSet {w : Nat} : List (Nat × BitVec w) → Nat → BitVec w → List (Nat × BitVec w)
  | [], a, v => [(a, v)]
  | (k, u) :: rest, a, v =>
    if a < k then (a, v) :: (k, u) :: rest
    else if a = k then (a, v) :: rest
    else (k, u) :: cellSet rest a v

/-- The cells of consecutive addresses from `a` on. -/
def cellsFrom {w : Nat} (a : Nat) : List (BitVec w) → List (Nat × BitVec w)
  | [] => []
  | v :: vs => (a, v) :: cellsFrom (a + 1) vs

/-- Element `a` of a space, if it has a definite value (R70, R73). -/
def Bank.get {w : Nat} (b : Bank w) (a : Nat) : Option (BitVec w) := cellAt b.cells a

/-- The space with element `a` replaced by `v` (R70). -/
def Bank.set {w : Nat} (b : Bank w) (a : Nat) (v : BitVec w) : Bank w := ⟨cellSet b.cells a v⟩

/-- The space with consecutive elements from `a` on replaced. -/
def Bank.setFrom {w : Nat} (b : Bank w) (a : Nat) : List (BitVec w) → Bank w
  | [] => b
  | v :: vs => (b.set a v).setFrom (a + 1) vs

/-- The space whose elements `0, 1, ...` are the values of a list, and no other element has a definite value. -/
def Bank.ofList {w : Nat} (vs : List (BitVec w)) : Bank w := ⟨cellsFrom 0 vs⟩

/-- The space with the listed elements written in order. -/
def Bank.setAll {w : Nat} (b : Bank w) (xs : List (Nat × BitVec w)) : Bank w :=
  xs.foldl (fun b x => b.set x.1 x.2) b

/-- The addresses are strictly rising: the canonical form of a space (log entry 4). -/
def rising : List Nat → Bool
  | [] => true
  | [_] => true
  | a :: b :: rest => a < b && rising (b :: rest)

/-- The canonical form of a space: strictly rising addresses, so equal contents are equal data. -/
def Bank.wf {w : Nat} (b : Bank w) : Bool := rising (b.cells.map Prod.fst)

/-- The canonical form of all spaces. -/
def Memory.wf (m : Memory) : Bool :=
  m.tb.wf && m.pl.wf && m.bAck.wf && m.bCsi1.wf && m.bCsi2.wf && m.bUlsch.wf && m.scr.wf && m.gout.wf
    && m.posAck.wf && m.posCsi1.wf && m.posCsi2.wf && m.posUlsch.wf && m.lin.wf
    && m.lAck.wf && m.lCsi1.wf && m.lCsi2.wf && m.lUlsch.wf

/-- The definite value of element `a` of a space, none where its content is unspecified (20_memory.md R70, R73). -/
def State.peek (s : State) (sp : Space) (a : Nat) : Option Nat :=
  match sp with
  | .tb => (s.mem.tb.get a).map BitVec.toNat
  | .pl => (s.mem.pl.get a).map BitVec.toNat
  | .prbs => some (s.rb.prbs.getLsbD a).toNat
  | .rbgs => some (s.rb.rbgs.getLsbD a).toNat
  | .msc => s.uci.msc[a]?.map BitVec.toNat
  | .muci => s.uci.muci[a]?.map BitVec.toNat
  | .bAck => (s.mem.bAck.get a).map BitVec.toNat
  | .bCsi1 => (s.mem.bCsi1.get a).map BitVec.toNat
  | .bCsi2 => (s.mem.bCsi2.get a).map BitVec.toNat
  | .bUlsch => (s.mem.bUlsch.get a).map BitVec.toNat
  | .scr => (s.mem.scr.get a).map BitVec.toNat
  | .gout => (s.mem.gout.get a).map BitVec.toNat
  | .posAck => (s.mem.posAck.get a).map BitVec.toNat
  | .posCsi1 => (s.mem.posCsi1.get a).map BitVec.toNat
  | .posCsi2 => (s.mem.posCsi2.get a).map BitVec.toNat
  | .posUlsch => (s.mem.posUlsch.get a).map BitVec.toNat
  | .lin => (s.mem.lin.get a).map BitVec.toNat
  | .lAck => (s.mem.lAck.get a).map BitVec.toNat
  | .lCsi1 => (s.mem.lCsi1.get a).map BitVec.toNat
  | .lCsi2 => (s.mem.lCsi2.get a).map BitVec.toNat
  | .lUlsch => (s.mem.lUlsch.get a).map BitVec.toNat

/-- `MemWrite(space, a, 1, v)` (R70), `v` cut to the element's width; the bitmaps of RBAU are set bit by bit. -/
def State.poke (s : State) (sp : Space) (a v : Nat) : State :=
  match sp with
  | .tb => { s with mem := { s.mem with tb := s.mem.tb.set a (BitVec.ofNat 8 v) } }
  | .pl => { s with mem := { s.mem with pl := s.mem.pl.set a (BitVec.ofNat 8 v) } }
  | .prbs =>
    { s with rb := { s.rb with prbs := if v % 2 = 1 then s.rb.prbs ||| BitVec.twoPow 275 a
                                       else s.rb.prbs &&& ~~~(BitVec.twoPow 275 a) } }
  | .rbgs =>
    { s with rb := { s.rb with rbgs := if v % 2 = 1 then s.rb.rbgs ||| BitVec.twoPow 19 a
                                       else s.rb.rbgs &&& ~~~(BitVec.twoPow 19 a) } }
  | .msc => { s with uci := { s.uci with msc := s.uci.msc.setIfInBounds a (BitVec.ofNat 16 v) } }
  | .muci => { s with uci := { s.uci with muci := s.uci.muci.setIfInBounds a (BitVec.ofNat 16 v) } }
  | .bAck => { s with mem := { s.mem with bAck := s.mem.bAck.set a (BitVec.ofNat 2 v) } }
  | .bCsi1 => { s with mem := { s.mem with bCsi1 := s.mem.bCsi1.set a (BitVec.ofNat 1 v) } }
  | .bCsi2 => { s with mem := { s.mem with bCsi2 := s.mem.bCsi2.set a (BitVec.ofNat 1 v) } }
  | .bUlsch => { s with mem := { s.mem with bUlsch := s.mem.bUlsch.set a (BitVec.ofNat 1 v) } }
  | .scr => { s with mem := { s.mem with scr := s.mem.scr.set a (BitVec.ofNat 1 v) } }
  | .gout => { s with mem := { s.mem with gout := s.mem.gout.set a (BitVec.ofNat 2 v) } }
  | .posAck => { s with mem := { s.mem with posAck := s.mem.posAck.set a (BitVec.ofNat 32 v) } }
  | .posCsi1 => { s with mem := { s.mem with posCsi1 := s.mem.posCsi1.set a (BitVec.ofNat 32 v) } }
  | .posCsi2 => { s with mem := { s.mem with posCsi2 := s.mem.posCsi2.set a (BitVec.ofNat 32 v) } }
  | .posUlsch => { s with mem := { s.mem with posUlsch := s.mem.posUlsch.set a (BitVec.ofNat 32 v) } }
  | .lin => { s with mem := { s.mem with lin := s.mem.lin.set a (BitVec.ofNat 8 v) } }
  | .lAck => { s with mem := { s.mem with lAck := s.mem.lAck.set a (BitVec.ofNat 8 v) } }
  | .lCsi1 => { s with mem := { s.mem with lCsi1 := s.mem.lCsi1.set a (BitVec.ofNat 8 v) } }
  | .lCsi2 => { s with mem := { s.mem with lCsi2 := s.mem.lCsi2.set a (BitVec.ofNat 8 v) } }
  | .lUlsch => { s with mem := { s.mem with lUlsch := s.mem.lUlsch.set a (BitVec.ofNat 8 v) } }

/-- FREE VALUE (20_memory.md R73, log entry 3): what the read of an element with unspecified content returns in this command, an
unspecified value of the element's width. `pass` tells two reads of one element by one command apart. -/
def State.anyValue (s : State) (pass : Nat) (sp : Space) (a : Nat) : Nat :=
  (Config.freeElem s.serial pass sp.id a).toNat % 2 ^ sp.width

/-- `MemRead(space, a, 1)` in the given pass of the command: the definite value, or any value (R70, R73). -/
def State.readPass (s : State) (pass : Nat) (sp : Space) (a : Nat) : Nat :=
  (s.peek sp a).getD (s.anyValue pass sp a)

/-- `MemRead(space, a, 1)` (R70). -/
def State.read (s : State) (sp : Space) (a : Nat) : Nat := s.readPass 0 sp a

/-! ## Completion of a command: raising an error, fatal errors, commit -/

/-- How the rule of a command ends (60_exceptions.md R321): with the state its writes leave, with `raise`, or with `fatal`. -/
inductive Result where
  | ok (s : State)
  | raise (e : Code)
  | fatal (c : FatalCause)
deriving DecidableEq, Repr

/-- A precondition and the code it raises when it fails; preconditions are tested in the order written (R324). -/
def require (p : Prop) [Decidable p] (e : Code) (k : Result) : Result := if p then k else .raise e

/-- The completion sequence (60_exceptions.md R321, R322, R326): commit the writes and report `OK`, or discard them and report
the code; a fatal error also locks the block, keeping the first cause (10_state.md R32). `CSEQ` counts the command (10_state.md
R24). -/
def State.complete (s : State) : Result → State
  | .ok t => { t with status := .ok, cseq := s.cseq + 1 }
  | .raise e => { s with status := e, cseq := s.cseq + 1 }
  | .fatal c => { s with status := c.code, fatal := s.fatal.or (some c), cseq := s.cseq + 1 }

/-- `reset()` (70_reset_and_hazards.md R350) as `SYS.RESET` performs it: the memory spaces marked unspecified keep their content.
The model's own fields stay, and no parse is in progress. -/
def State.softReset (s : State) : State :=
  { State.reset with params := s.params, inbox := s.inbox, serial := s.serial, mem := s.mem }

/-- `reset()` as hardware reset performs it (R350): the memory spaces marked unspecified lose their content. A run starts in
`State.reset`; this is the same reset in the course of a run, the model's own fields kept. -/
def State.hardReset (s : State) : State :=
  { State.reset with params := s.params, inbox := s.inbox, serial := s.serial }

/-! ## The serializer -/

/-- The bytes of a sub-header as the serializer writes them: `R` is 0, then the length bytes (R251). -/
def headerBytes (lcid : BitVec 6) (f : Bool) (hlen slen : Nat) : List Byte :=
  headerByte false f lcid ::
    (if hlen = 2 then [byte slen] else if hlen = 3 then [byte (slen / 256), byte slen] else [])

/-- A descriptor from the numbers of a rule (10_state.md R50). -/
def mkDesc (lcid : BitVec 6) (f : Bool) (hlen slen soff : Nat) : Desc :=
  { lcid := lcid, f := f, hlen := BitVec.ofNat 2 hlen, slen := word slen, soff := word soff }

/-- The state after a sub-PDU of `hlen + slen` bytes was appended: its bytes in `TB` from `woff` on, its descriptor, the byte
counts (R251). -/
def State.putSubPdu (s : State) (lcid : BitVec 6) (f : Bool) (hlen slen : Nat) (pay : List Byte) : State :=
  let o := s.mac.woff.toNat
  { s with
    mem := { s.mem with tb := s.mem.tb.setFrom o (headerBytes lcid f hlen slen ++ pay) }
    mac := { s.mac with
      sp := s.mac.sp ++ [mkDesc lcid f hlen slen (o + hlen)]
      woff := word (o + (hlen + slen))
      remain := word (s.mac.remain.toNat - (hlen + slen)) } }

/-- `append` (44_mac_pack.md R251): table capacity, then space, then the writes and the three results. -/
def State.append (s : State) (lcid : BitVec 6) (f : Bool) (hlen slen : Nat) (pay : List Byte) : Result :=
  require (s.mac.sp.length ≠ s.params.spCap) .tableFull <|
  require (hlen + slen ≤ s.mac.remain.toNat) .noSpace <|
  .ok { s.putSubPdu lcid f hlen slen pay with
    r := { s.r with
      r0 := word (hlen + slen)
      r1 := word slen
      r2 := word (s.mac.remain.toNat - (hlen + slen)) } }

/-- A control element with a one-byte header: session mode, direction, then `append` (R256 to R262). -/
def State.appendCe (s : State) (dir : Dir) (lcid : BitVec 6) (pay : List Byte) : Result :=
  require (s.mac.mode = .tx) .badState <|
  require (s.mac.dir = dir) .wrongDir <|
  s.append lcid false 1 pay.length pay

/-! ## The deserializer -/

/-- A sub-header as the parser sees it: bit 6, the LCID, and the length field if the bytes hold one. -/
structure SubHeader where
  f : Bool
  lcid : BitVec 6
  len : Option Nat
deriving DecidableEq, Repr

/-- The sub-header of an instruction that is one. -/
def subHeaderOf : Instr → Option SubHeader
  | .subhdr1B _ f lcid => some ⟨f, lcid, none⟩
  | .subhdr2B _ lcid len => some ⟨false, lcid, some len.toNat⟩
  | .subhdr3B _ lcid len => some ⟨true, lcid, some len.toNat⟩
  | _ => none

/-- `hlen` and `slen` of the sub-PDU that a sub-header opens at offset `off` of a block of `len` bytes, or the error of
43_mac_parse.md R222 (reserved LCID, length bytes cut off, no size known). -/
def subPduSize (dir : Dir) (off len : Nat) (h : SubHeader) : Except Code (Nat × Nat) :=
  let lcid := h.lcid.toNat
  if !isValidLcid lcid dir then .error .malformedPdu
  else if hasLength lcid dir then
    match h.len with
    | none => .error .malformedPdu
    | some l => .ok (if h.f then 3 else 2, l)
  else if lcid = 63 then .ok (1, len - off - 1)
  else
    match ceSize lcid dir with
    | some n => .ok (1, n)
    | none => .error .unsupportedLcid

/-- The body of the loop of R222 for one sub-header: its descriptor goes to the end of the list and the offset moves past the
payload, or the block is refused. -/
def parseOne (dir : Dir) (spCap : Nat) (c : Cursor) (h : SubHeader) : Except Code Cursor :=
  match subPduSize dir c.off c.len h with
  | .error e => .error e
  | .ok (hlen, slen) =>
    if c.off + hlen + slen > c.len then .error .malformedPdu
    else if c.list.length = spCap then .error .tableFull
    else .ok { c with
      off := c.off + hlen + slen
      list := c.list ++ [mkDesc h.lcid h.f hlen slen (c.off + hlen)] }

/-- The bytes of the sub-header at the cursor: one, and the length bytes where the LCID carries a length and they are not cut
off by the end of the block (30_encoding.md R111, 43_mac_parse.md R222). -/
def State.subHeaderBytes (s : State) (c : Cursor) : List Byte :=
  let h := byte (s.read .tb c.off)
  let nL := if h.getLsbD 6 then 2 else 1
  if hasLength (h.extractLsb' 0 6).toNat s.mac.dir && c.off + 1 + nL ≤ c.len then
    h :: (List.range nL).map (fun i => byte (s.read .tb (c.off + 1 + i)))
  else [h]

/-- The sub-header the parser reads at the cursor. -/
def State.fetchSubHeader (s : State) (c : Cursor) : Except Illegal Instr := decodeSubHeader (s.subHeaderBytes c)

/-- The loop of R222 from the cursor on. Every pass moves the offset up, so `len` passes reach the end of the block. -/
def State.parseLoop (s : State) : (fuel : Nat) → Cursor → Except Code Cursor
  | 0, c => .ok c
  | fuel + 1, c =>
    if c.off < c.len then
      match (s.fetchSubHeader c).toOption.bind subHeaderOf with
      | none => .error .malformedPdu
      | some h =>
        match parseOne s.mac.dir s.params.spCap c h with
        | .error e => .error e
        | .ok c' => s.parseLoop fuel c'
    else .ok c

/-- The commit at the end of R222: the table, the length, the mode, the two results. -/
def State.commitParse (s : State) (c : Cursor) : State :=
  { s with
    cursor := .idle
    mac := { s.mac with sp := c.list, tbLen := word c.len, mode := .rxDone }
    r := { s.r with r0 := word c.list.length, r1 := word c.len } }

/-- A sub-header met by the parse in progress (log entry 5): one pass of the loop of R222 at the state's cursor. After the
last byte of the block the parse commits; an error ends it and discards the list. With no parse in progress the loop's
test fails and nothing happens. -/
def State.parseSubHeader (s : State) (h : SubHeader) : State :=
  if s.cursor.off < s.cursor.len then
    match parseOne s.mac.dir s.params.spCap s.cursor h with
    | .error e => { s with cursor := .idle }.complete (.raise e)
    | .ok c => if c.off < c.len then { s with cursor := c } else s.complete (.ok (s.commitParse c))
  else s

end Sys2Proof.Machine
end

