-- ==== Sys2Proof/Machine/RbAllocator.lean ====
section
/-! DEFINITION. The PRB/RBG bitmap allocator of RBAU (41_rb_allocator.md). -/

namespace Sys2Proof.Machine

/-- RBAU is initialised: `RB_NPRB != 0` (10_state.md R38). -/
abbrev State.rbReady (s : State) : Prop := s.rb.nprb.toNat ≠ 0

/-- `RB.INIT` (R163). -/
def execRbInit (cfg : RbgConfig) (start : BitVec 16) (n : Word) (s : State) : Host.Outcome State Fault Refusal :=
  .next <| s.complete <|
    require (1 ≤ n.toNat ∧ n.toNat ≤ Config.maxPrb ∧ start.toNat + n.toNat ≤ Config.maxPrb) .badOperand <|
    .ok { s with rb := s.rb.init cfg start.toNat n.toNat }

/-- `RB.CLEAR` (R165). -/
def execRbClear (s : State) : Host.Outcome State Fault Refusal :=
  .next <| s.complete <|
    require s.rbReady .badState <|
    .ok { s with rb := s.rb.clear }

/-- `RB.ADD_INTERVAL` (R167). -/
def execRbAddInterval (start : BitVec 16) (stop : Word) (s : State) : Host.Outcome State Fault Refusal :=
  .next <| s.complete <|
    require s.rbReady .badState <|
    require (start.toNat ≤ stop.toNat ∧ stop.toNat ≤ s.rb.nprb.toNat) .badOperand <|
    .ok { s with rb := s.rb.addInterval start.toNat stop.toNat }

/-- `RB.ADD_RBGS` (R169). -/
def execRbAddRbgs (mask : BitVec 19) (s : State) : Host.Outcome State Fault Refusal :=
  .next <| s.complete <|
    require s.rbReady .badState <|
    require (mask.toNat < 2 ^ s.rb.nrbg.toNat) .badOperand <|
    .ok { s with rb := s.rb.addRbgs mask }

/-- `RB.ADD_GRANT` (R171). -/
def execRbAddGrant (s : State) : Host.Outcome State Fault Refusal :=
  .next <| s.complete <|
    require s.rbReady .badState <|
    require (s.rb.grantFits s.rb.gr) .badOperand <|
    .ok { s with rb := s.rb.addGrant s.rb.gr }

/-- `RB.COLLIDES` (R173). -/
def execRbCollides (s : State) : Host.Outcome State Fault Refusal :=
  .next <| s.complete <|
    require s.rbReady .badState <|
    require (s.rb.grantFits s.rb.gr) .badOperand <|
    .ok { s with r := { s.r with r0 := word (s.rb.collides s.rb.gr).toNat } }

/-- The three results of a search: the interval, `{0,0}` where there is none, and the found flag (R175, R177). -/
def State.putInterval (s : State) (iv : Nat × Nat) (found : Bool) : State :=
  { s with r := { s.r with r0 := word iv.1, r1 := word iv.2, r2 := word found.toNat } }

/-- `RB.FIND_NEXT` (R175). -/
def execRbFindNext (startIdx : BitVec 16) (lastIdx : Word) (s : State) : Host.Outcome State Fault Refusal :=
  .next <| s.complete <|
    require s.rbReady .badState <|
    match findNext s.rb.prbs s.rb.nprb.toNat startIdx.toNat lastIdx.toNat with
    | none => .ok (s.putInterval (0, 0) false)
    | some iv => .ok (s.putInterval iv true)

/-- `RB.FIND_LEN` (R177). -/
def execRbFindLen (startIdx : BitVec 16) (nofPrbs : Word) (s : State) : Host.Outcome State Fault Refusal :=
  .next <| s.complete <|
    require s.rbReady .badState <|
    let found := findLen s.rb.prbs s.rb.nprb.toNat startIdx.toNat nofPrbs.toNat
    .ok (s.putInterval found.1 found.2)

/-- `RB.PRB2RBG` (R179). -/
def execRbPrb2Rbg (prb : Word) (s : State) : Host.Outcome State Fault Refusal :=
  .next <| s.complete <|
    require s.rbReady .badState <|
    require (prb.toNat < s.rb.nprb.toNat) .badOperand <|
    .ok { s with r := { s.r with r0 := word (s.rb.toRbg prb.toNat) } }

end Sys2Proof.Machine
end

