-- ==== Sys2Proof/Machine/GrantCodec.lean ====
section
/-! DEFINITION. The grant register of RBAU and its field codes (42_grant_codec.md). Reading the inactive variant of the grant is
the one fatal error (R193, R194). -/

namespace Sys2Proof.Machine

/-- `RB.GRANT_SET_INTERVAL` (R190). -/
def execRbGrantSetInterval (start : BitVec 16) (stop : Word) (s : State) : Host.Outcome State Fault Refusal :=
  .next <| s.complete <|
    require (start.toNat ≤ stop.toNat ∧ stop.toNat ≤ Config.maxPrb) .badOperand <|
    .ok { s with rb := { s.rb with gr := .type1 (BitVec.ofNat 9 start.toNat) (BitVec.ofNat 9 stop.toNat) } }

/-- `RB.GRANT_SET_RBGS` (R191). -/
def execRbGrantSetRbgs (mask : BitVec 19) (s : State) : Host.Outcome State Fault Refusal :=
  .next <| s.complete <| .ok { s with rb := { s.rb with gr := .type0 mask } }

/-- `RB.GRANT_TYPE` (R192). -/
def execRbGrantType (s : State) : Host.Outcome State Fault Refusal :=
  .next <| s.complete <| .ok { s with r := { s.r with r0 := word s.rb.gr.tag } }

/-- `RB.GRANT_GET_PRBS` (R193): fatal on a type-0 grant. -/
def execRbGrantGetPrbs (s : State) : Host.Outcome State Fault Refusal :=
  .next <| s.complete <|
    match s.rb.gr with
    | .type0 _ => .fatal .variant
    | .type1 start stop => .ok { s with r := { s.r with r0 := start.setWidth 32, r1 := stop.setWidth 32 } }

/-- `RB.GRANT_GET_RBGS` (R194): fatal on a type-1 grant. -/
def execRbGrantGetRbgs (s : State) : Host.Outcome State Fault Refusal :=
  .next <| s.complete <|
    match s.rb.gr with
    | .type0 mask => .ok { s with r := { s.r with r0 := mask.setWidth 32 } }
    | .type1 _ _ => .fatal .variant

/-- `RB.GRANT_ENCODE` (R198). -/
def execRbGrantEncode (s : State) : Host.Outcome State Fault Refusal :=
  .next <| s.complete <|
    require s.rbReady .badState <|
    require (s.rb.encodable s.rb.gr) .badOperand <|
    .ok { s with r := { s.r with r0 := word (s.rb.encodeGrant s.rb.gr).1, r1 := word (s.rb.encodeGrant s.rb.gr).2 } }

/-- `RB.GRANT_DECODE` (R200). -/
def execRbGrantDecode (type : AllocType) (field : Word) (s : State) : Host.Outcome State Fault Refusal :=
  .next <| s.complete <|
    require s.rbReady .badState <|
    require (s.rb.decodable type field.toNat) .badOperand <|
    .ok { s with rb := { s.rb with gr := s.rb.decodeGrant type field.toNat } }

end Sys2Proof.Machine
end

