-- ==== Sys2Proof/Machine/MacPack.lean ====
section
/-! DEFINITION. The serializer of MACU (44_mac_pack.md). -/

namespace Sys2Proof.Machine

/-- `MAC.INIT_TX` (R250). -/
def execMacInitTx (dir : Dir) (tbLen : Word) (s : State) : Host.Outcome State Fault Refusal :=
  .next <| s.complete <|
    require (tbLen.toNat ≤ s.params.tbCap) .badOperand <|
    .ok { s with mac := { mode := .tx, dir := dir, tbLen := tbLen, remain := tbLen, woff := 0, sp := [] } }

/-- The payload length `MAC.ADD_SDU` uses: the fixed size for an uplink CCCH, whatever `len` says, else `len` (R252). -/
def sduLen (lcid : BitVec 6) (dir : Dir) (len : BitVec 16) : Nat :=
  if isUlCcch lcid.toNat dir then (ceSize lcid.toNat dir).getD 0 else len.toNat

/-- The `F` bit `MAC.ADD_SDU` writes: 1 exactly for a length-carrying SDU of 256 bytes or more (R252). -/
def sduF (lcid : BitVec 6) (dir : Dir) (len : BitVec 16) : Bool :=
  !isUlCcch lcid.toNat dir && 256 ≤ len.toNat

/-- The header length `MAC.ADD_SDU` writes (R252). -/
def sduHlen (lcid : BitVec 6) (dir : Dir) (len : BitVec 16) : Nat :=
  if isUlCcch lcid.toNat dir then 1 else if sduF lcid dir len then 3 else 2

/-- `n` payload bytes of space `PL` from `addr` on (R252). -/
def State.payload (s : State) (addr n : Nat) : List Byte := (List.range n).map (fun i => byte (s.read .pl (addr + i)))

/-- `MAC.ADD_SDU` (R252). -/
def execMacAddSdu (lcid : BitVec 6) (len : BitVec 16) (addr : Word) (s : State) : Host.Outcome State Fault Refusal :=
  .next <| s.complete <|
    let slen := sduLen lcid s.mac.dir len
    require (s.mac.mode = .tx) .badState <|
    require (lcidClass lcid.toNat s.mac.dir = .sdu ∨ lcidClass lcid.toNat s.mac.dir = .ulCcch) .badOperand <|
    require (addr.toNat + slen ≤ s.params.plCap) .badOperand <|
    s.append lcid (sduF lcid s.mac.dir len) (sduHlen lcid s.mac.dir len) slen (s.payload addr.toNat slen)

/-- `MAC.ADD_CRNTI_CE` (R256): the C-RNTI most significant byte first. -/
def execMacAddCrntiCe (rnti : BitVec 16) (s : State) : Host.Outcome State Fault Refusal :=
  .next <| s.complete <| s.appendCe .ul 58 [rnti.extractLsb' 8 8, rnti.extractLsb' 0 8]

/-- `MAC.ADD_SE_PHR_CE` (R258): two bytes, `00` in bits 7:6 of each. -/
def execMacAddSePhrCe (phr pcmax : BitVec 6) (s : State) : Host.Outcome State Fault Refusal :=
  .next <| s.complete <| s.appendCe .ul 57 [0#2 ++ phr, 0#2 ++ pcmax]

/-- `MAC.ADD_SBSR_CE` (R260): the group in bits 7:5, the buffer size in bits 4:0. -/
def execMacAddSbsrCe (lcg : BitVec 3) (bs : BitVec 5) (s : State) : Host.Outcome State Fault Refusal :=
  .next <| s.complete <| s.appendCe .ul 61 [lcg ++ bs]

/-- `MAC.ADD_CONRES_CE` (R262): the 48-bit identity most significant byte first. -/
def execMacAddConresCe (id : BitVec 48) (s : State) : Host.Outcome State Fault Refusal :=
  .next <| s.complete <| s.appendCe .dl 62
    [id.extractLsb' 40 8, id.extractLsb' 32 8, id.extractLsb' 24 8, id.extractLsb' 16 8, id.extractLsb' 8 8,
      id.extractLsb' 0 8]

/-- The padding sub-PDU fills the `R > 0` remaining bytes: the header `3F`, then zeros (R266). -/
def State.putPadding (s : State) : State :=
  s.putSubPdu 63 false 1 (s.mac.remain.toNat - 1) (List.replicate (s.mac.remain.toNat - 1) 0)

/-- The state after `MAC.PACK` has finished the block, before its results (R266). -/
def State.finishBlock (s : State) : State := if 0 < s.mac.remain.toNat then s.putPadding else s

/-- `MAC.PACK` (R266). -/
def execMacPack (s : State) : Host.Outcome State Fault Refusal :=
  .next <| s.complete <|
    require (s.mac.mode = .tx) .badState <|
    require (0 < s.mac.remain.toNat → s.mac.sp.length ≠ s.params.spCap) .tableFull <|
    .ok { s.finishBlock with r := { s.r with r0 := s.finishBlock.mac.woff, r1 := s.mac.remain } }

/-- `MAC.RELEASE` (R268). -/
def execMacRelease (s : State) : Host.Outcome State Fault Refusal :=
  .next (s.complete (.ok { s with mac := Mac.reset }))

end Sys2Proof.Machine
end

