-- ==== Sys2Proof/Machine/MacParse.lean ====
section
/-! DEFINITION. The LCID check and the deserializer of MACU (43_mac_parse.md), and the three sub-header patterns of the wire
(30_encoding.md R111) as the deserializer meets them. -/

namespace Sys2Proof.Machine

/-- The size `MAC.CHK_LCID` reports: `CE_SIZE` for the classes with a fixed size, else 0 (R218). -/
def fixedSize (lcid : Nat) (dir : Dir) : Nat :=
  if lcidClass lcid dir = .ulCcch ∨ lcidClass lcid dir = .fixedCe then (ceSize lcid dir).getD 0 else 0

/-- `MAC.CHK_LCID` (R218). -/
def execMacChkLcid (lcid : BitVec 6) (dir : Dir) (s : State) : Host.Outcome State Fault Refusal :=
  .next <| s.complete <| .ok { s with r := { s.r with
    r0 := if lcidClass lcid.toNat dir = .invalid then 0 else 1
    r1 := word (lcidClass lcid.toNat dir).code
    r2 := word (fixedSize lcid.toNat dir) } }

/-- `MAC.INIT_RX` (R220). -/
def execMacInitRx (dir : Dir) (s : State) : Host.Outcome State Fault Refusal :=
  .next <| s.complete <|
    .ok { s with mac := { mode := .rx, dir := dir, tbLen := 0, remain := 0, woff := 0, sp := [] } }

/-- `MAC.UNPACK` (R222). -/
def execMacUnpack (len : Word) (s : State) : Host.Outcome State Fault Refusal :=
  .next <| s.complete <|
    require (s.mac.mode = .rx) .badState <|
    require (len.toNat ≤ s.params.tbCap) .badOperand <|
    match s.parseLoop len.toNat ⟨0, len.toNat, []⟩ with
    | .error e => .raise e
    | .ok c => .ok (s.commitParse c)

/-- The session modes in which the descriptor table may be read (R228, R230). -/
def Mode.hasTable (m : Mode) : Bool := m = .tx || m = .rxDone

/-- `r[0]` of `MAC.GET_SUBPDU`: the LCID, `F` at bit 8, `hlen` from bit 16 on (R228). -/
def Desc.summary (e : Desc) : Nat := e.lcid.toNat + 256 * e.f.toNat + 65536 * e.hlen.toNat

/-- `MAC.GET_SUBPDU` (R228). -/
def execMacGetSubpdu (index : Word) (s : State) : Host.Outcome State Fault Refusal :=
  .next <| s.complete <|
    require s.mac.mode.hasTable .badState <|
    match s.mac.sp[index.toNat]? with
    | none => .raise .badIndex
    | some e =>
      .ok { s with r := {
        r0 := word e.summary
        r1 := e.slen
        r2 := e.soff
        r3 := word (e.hlen.toNat + e.slen.toNat) } }

/-- What the Long BSR decode has gathered so far: `cnt` values read, the mask of the defaulted groups, the buffer sizes of the
groups passed (R230). -/
structure LongBsr where
  cnt : Nat
  dm : Nat
  bs : List Nat
deriving DecidableEq, Repr

/-- The decode loop of R230 over the groups `i`, `i+1`, ... (`left` of them): `vals` are the buffer-size bytes present in the
payload, `trunc` says that the LCID is 60. -/
def lbsrLoop (bm : Nat) (vals : List Nat) (trunc : Bool) : (left i : Nat) → LongBsr → Except Code LongBsr
  | 0, _, acc => .ok acc
  | left + 1, i, acc =>
    if bm.testBit i then
      match vals[acc.cnt]? with
      | some v => lbsrLoop bm vals trunc left (i + 1) ⟨acc.cnt + 1, acc.dm, acc.bs ++ [v]⟩
      | none =>
        if trunc then
          lbsrLoop bm vals trunc left (i + 1) ⟨acc.cnt, acc.dm ||| 1 <<< i, acc.bs ++ [Config.lbsrTruncDefault]⟩
        else .error .malformedPdu
    else lbsrLoop bm vals trunc left (i + 1) ⟨acc.cnt, acc.dm, acc.bs ++ [0]⟩

/-- The buffer-size bytes a Long BSR payload holds after its bitmap byte, of which at most eight are ever read (R230). -/
def State.lbsrValues (s : State) (e : Desc) : List Nat :=
  (List.range (min (e.slen.toNat - 1) 8)).map (fun i => s.read .tb (e.soff.toNat + 1 + i))

/-- Four 8-bit values in one register, the first in the lowest byte (R230). -/
def packBytes : List Nat → Nat
  | [] => 0
  | v :: vs => v + 256 * packBytes vs

/-- `MAC.GET_LBSR` (R230). -/
def execMacGetLbsr (index : Word) (s : State) : Host.Outcome State Fault Refusal :=
  .next <| s.complete <|
    require s.mac.mode.hasTable .badState <|
    match s.mac.sp[index.toNat]? with
    | none => .raise .badIndex
    | some e =>
      require (s.mac.dir = .ul ∧ (e.lcid = 60 ∨ e.lcid = 62)) .badOperand <|
      require (1 ≤ e.slen.toNat) .malformedPdu <|
      let bm := s.read .tb e.soff.toNat
      match lbsrLoop bm (s.lbsrValues e) (e.lcid = 60) 8 0 ⟨0, 0, []⟩ with
      | .error c => .raise c
      | .ok d =>
        .ok { s with r := { s.r with
          r0 := word (bm + 256 * d.cnt + 65536 * d.dm)
          r1 := word (packBytes (d.bs.take 4))
          r2 := word (packBytes (d.bs.drop 4)) } }

/-- `SUBHDR.1B` (30_encoding.md R111, 43_mac_parse.md R222): a sub-header without length bytes. -/
def execSubhdr1B (_r f : Bool) (lcid : BitVec 6) (s : State) : Host.Outcome State Fault Refusal :=
  .next (s.parseSubHeader ⟨f, lcid, none⟩)

/-- `SUBHDR.2B` (R111, R222): `F = 0` and an 8-bit length. -/
def execSubhdr2B (_r : Bool) (lcid : BitVec 6) (len : BitVec 8) (s : State) : Host.Outcome State Fault Refusal :=
  .next (s.parseSubHeader ⟨false, lcid, some len.toNat⟩)

/-- `SUBHDR.3B` (R111, R222): `F = 1` and a 16-bit length. -/
def execSubhdr3B (_r : Bool) (lcid : BitVec 6) (len : BitVec 16) (s : State) : Host.Outcome State Fault Refusal :=
  .next (s.parseSubHeader ⟨true, lcid, some len.toNat⟩)

end Sys2Proof.Machine
end

