-- ==== Sys2Proof/Machine/System.lean ====
section
/-! DEFINITION. The system, register and memory commands (40_system_commands.md). -/

namespace Sys2Proof.Machine

/-- `SYS.NOP` (R140): nothing but the completion. -/
def execSysNop (s : State) : Host.Outcome State Fault Refusal := .next (s.complete (.ok s))

/-- `SYS.RESET` (R141, 70_reset_and_hazards.md R350): not counted by `CSEQ`. -/
def execSysReset (s : State) : Host.Outcome State Fault Refusal := .next s.softReset

/-- `CSR.WR` (R143). -/
def execCsrWr (csr : BitVec 8) (value : Word) (s : State) : Host.Outcome State Fault Refusal :=
  .next <| s.complete <|
    require (csrExists csr.toNat) .badIndex <|
    require (csrWritable csr.toNat) .badOperand <|
    .ok { s with uci := (s.uci.writeCfg csr.toNat value).invalidate }

/-- The state after `MemWrite` by the host: a write to `MSC` or `MUCI` also invalidates the UCIU results (R145). -/
def State.hostWrite (s : State) (sp : Space) (a v : Nat) : State :=
  let t := s.poke sp a v
  if sp = .msc ∨ sp = .muci then { t with uci := t.uci.invalidate } else t

/-- `MEM.WR` (R145). -/
def execMemWr (space : BitVec 8) (data : BitVec 16) (addr : Word) (s : State) : Host.Outcome State Fault Refusal :=
  .next <| s.complete <|
    match spaceOfId space.toNat with
    | none => .raise .badIndex
    | some sp =>
      require (addr.toNat < sp.size s.params) .badIndex <|
      require sp.hostWritable .badOperand <|
      require (data.toNat < 2 ^ sp.width) .badOperand <|
      require (sp = .tb → s.mac.mode = .idle ∨ s.mac.mode = .rx) .badState <|
      .ok (s.hostWrite sp addr.toNat data.toNat)

/-- `MEM.RD` (R147). -/
def execMemRd (space : BitVec 8) (addr : Word) (s : State) : Host.Outcome State Fault Refusal :=
  .next <| s.complete <|
    match spaceOfId space.toNat with
    | none => .raise .badIndex
    | some sp =>
      require (addr.toNat < sp.size s.params) .badIndex <|
      .ok { s with r := { s.r with r0 := word (s.read sp addr.toNat) } }

end Sys2Proof.Machine
end

