-- ==== Sys2Proof/Machine/UciMux.lean ====
section
/-! DEFINITION. The UCI multiplexer UCIU (45_uci_mux.md): position generation, placing, scrambling, sorting. -/

namespace Sys2Proof.Machine

/-- The inputs of R283 as numbers: `l1`, `l1c`, `K`, `O`, `Gack`, `Grvd`, `G1`, `G2`, `Gul`. -/
structure MuxConfig where
  l1 : Nat
  l1c : Nat
  k : Nat
  o : Nat
  gack : Nat
  grvd : Nat
  g1 : Nat
  g2 : Nat
  gul : Nat
deriving DecidableEq, Repr

/-- The inputs of R283 from the registers: `K = Nl * Qm` (R282), and no reservation where `O > 2`. -/
def Uci.config (u : Uci) : MuxConfig :=
  { l1 := u.l1.toNat, l1c := u.l1csi.toNat, k := u.nl.toNat * u.qm.toNat, o := u.oack.toNat, gack := u.gack.toNat,
    grvd := if u.oack.toNat ≤ 2 then u.gackrvd.toNat else 0, g1 := u.gcsi1.toNat, g2 := u.gcsi2.toNat,
    gul := u.gulsch.toNat }

/-- `MSC[l]` (10_state.md R56). -/
def Uci.mscAt (u : Uci) (l : Nat) : Nat := (u.msc[l]?.getD 0).toNat

/-- `MUCI[l]` (10_state.md R56). -/
def Uci.muciAt (u : Uci) (l : Nat) : Nat := (u.muci[l]?.getD 0).toNat

/-- `MSC[0] + ... + MSC[13]` (R282). -/
def Uci.reTotal (u : Uci) : Nat := ((List.range Config.nSymb).map u.mscAt).sum

/-- `G_tot = K * (MSC[0] + ... + MSC[13])` (R282). -/
def Uci.codedBits (u : Uci) : Nat := u.config.k * u.reTotal

/-- The four position lists `pa`, `p1`, `p2`, `pu` of R283. -/
structure MuxLists where
  pa : List Nat
  p1 : List Nat
  p2 : List Nat
  pu : List Nat
deriving DecidableEq, Repr

/-- What the loop of R283 carries from symbol to symbol: the lists, `m_rvd`, and `base(l)` (R282). -/
structure MuxAcc where
  base : Nat
  mRvd : Nat
  lists : MuxLists
deriving DecidableEq, Repr

/-- `pick(cands, rem)` (R285): every candidate where the category takes all of them, else every `d`-th one. -/
def pick (k : Nat) (cands : List Nat) (rem : Nat) : List Nat :=
  if cands.length * k ≤ rem then cands
  else (List.range (rem / k)).filterMap (fun i => cands[i * (cands.length * k / rem)]?)

/-- The categories a resource element can get (R283, step 5). -/
inductive Category where
  | ack
  | csi1
  | csi2
  | ulsch
deriving DecidableEq, Repr

/-- `Rl`: the elements of symbol `l` reserved for potential HARQ-ACK (R283, step 1). -/
def reservedSet (c : MuxConfig) (l m mRvd : Nat) : List Nat :=
  if c.o ≤ 2 ∧ c.l1 ≤ l ∧ mRvd < c.grvd then pick c.k (List.range m) (c.grvd - mRvd) else []

/-- `Al`: the elements of symbol `l` that carry HARQ-ACK (R283, step 2): inside the reserved set where `O <= 2`, else from all. -/
def ackSet (c : MuxConfig) (l m : Nat) (rl : List Nat) (nAck : Nat) : List Nat :=
  if c.o ≤ 2 then
    if rl ≠ [] ∧ nAck < c.gack then pick c.k rl (c.gack - nAck) else []
  else if c.l1 ≤ l ∧ nAck < c.gack then pick c.k (List.range m) (c.gack - nAck) else []

/-- A CSI part of symbol `l` (R283, steps 3 and 4): picked from its candidates while bits are wanted. -/
def csiSet (c : MuxConfig) (l : Nat) (cands : List Nat) (n target : Nat) : List Nat :=
  if c.l1c ≤ l ∧ cands ≠ [] ∧ n < target then pick c.k cands (target - n) else []

/-- The category of resource element `j` (R283, step 5). -/
def categoryOf (al c1 c2 : List Nat) (j : Nat) : Category :=
  if j ∈ al then .ack else if j ∈ c1 then .csi1 else if j ∈ c2 then .csi2 else .ulsch

/-- The coded-bit indices of resource element `j` of a symbol: `base + j*K + k` (R282). -/
def reIndices (base k j : Nat) : List Nat := (List.range k).map (fun i => base + j * k + i)

/-- The indices of the elements of a symbol that have a category, ascending. -/
def symbolIndices (base k m : Nat) (cat : Nat → Category) (x : Category) : List Nat :=
  ((List.range m).filter (fun j => cat j = x)).flatMap (reIndices base k)

/-- The lists with the elements of a symbol assigned (R283, step 5). -/
def assignSymbol (a : MuxAcc) (k m : Nat) (cat : Nat → Category) : MuxLists :=
  { pa := a.lists.pa ++ symbolIndices a.base k m cat .ack
    p1 := a.lists.p1 ++ symbolIndices a.base k m cat .csi1
    p2 := a.lists.p2 ++ symbolIndices a.base k m cat .csi2
    pu := a.lists.pu ++ symbolIndices a.base k m cat .ulsch }

/-- One pass of the loop of R283: symbol `l` with `MSC[l] = m` and `MUCI[l] = mu`. -/
def muxSymbol (c : MuxConfig) (a : MuxAcc) (l m mu : Nat) : MuxAcc :=
  if m = 0 then a
  else if mu = 0 then { a with base := a.base + c.k * m, lists := assignSymbol a c.k m (fun _ => .ulsch) }
  else
    let rl := reservedSet c l m a.mRvd
    let al := ackSet c l m rl a.lists.pa.length
    let c1 := csiSet c l ((List.range m).filter (fun j => j ∉ al ∧ j ∉ rl)) a.lists.p1.length c.g1
    let c2 := csiSet c l ((List.range m).filter (fun j => j ∉ al ∧ j ∉ c1)) a.lists.p2.length c.g2
    { base := a.base + c.k * m
      mRvd := a.mRvd + c.k * rl.length
      lists := assignSymbol a c.k m (categoryOf al c1 c2) }

/-- The loop of R283 over the 14 symbols. -/
def Uci.muxLoop (u : Uci) : MuxAcc :=
  (List.range Config.nSymb).foldl (fun a l => muxSymbol u.config a l (u.mscAt l) (u.muciAt l)) ⟨0, 0, ⟨[], [], [], []⟩⟩

/-- The preconditions of R283 that raise `E_BAD_OPERAND`. -/
def Uci.configLegal (u : Uci) (gCap : Nat) : Bool :=
  let c := u.config
  (1 ≤ u.nl.toNat && u.nl.toNat ≤ 4)
    && [1, 2, 4, 6, 8].contains u.qm.toNat
    && (List.range Config.nSymb).all (fun l => u.muciAt l = 0 || u.muciAt l = u.mscAt l)
    && (c.gack % c.k = 0 && c.grvd % c.k = 0 && c.g1 % c.k = 0 && c.g2 % c.k = 0 && c.gul % c.k = 0)
    && (c.o > 2 || c.gack ≤ c.grvd)
    && u.codedBits ≤ gCap

/-- The final count test of R283. -/
def MuxLists.meets (p : MuxLists) (c : MuxConfig) : Bool :=
  p.pa.length = c.gack && p.p1.length = c.g1 && p.p2.length = c.g2 && p.pu.length = c.gul

/-- The lists `UCI.GEN_MUX` computes aside, or the code it raises (R283). -/
def Uci.genMux (u : Uci) (gCap : Nat) : Except Code MuxLists :=
  if !u.configLegal gCap then .error .badOperand
  else if u.reTotal ≠ u.nofre.toNat then .error .reMismatch
  else if u.muxLoop.lists.meets u.config then .ok u.muxLoop.lists
  else .error .reMismatch

/-- The memory spaces with the four position lists; elements beyond each count are unspecified (R283, 20_memory.md R73). -/
def Memory.putPositions (m : Memory) (p : MuxLists) : Memory :=
  { m with
    posAck := Bank.ofList (p.pa.map word)
    posCsi1 := Bank.ofList (p.p1.map word)
    posCsi2 := Bank.ofList (p.p2.map word)
    posUlsch := Bank.ofList (p.pu.map word) }

/-- `UCI.GEN_MUX` (R283). -/
def execUciGenMux (s : State) : Host.Outcome State Fault Refusal :=
  .next <| s.complete <|
    match s.uci.genMux s.params.gCap with
    | .error e => .raise e
    | .ok p =>
      .ok { s with
        mem := s.mem.putPositions p
        uci := { s.uci with valid := true, gtot := word s.uci.codedBits, gstate := .empty }
        r := { r0 := s.uci.gack, r1 := s.uci.gcsi1, r2 := s.uci.gcsi2, r3 := s.uci.gulsch } }

/-- The symbols of one category with their indices: element `m` of the stream goes to position `m` of the list (R292). -/
def State.stream (s : State) (pos src : Space) (n : Nat) : List (Nat × BitVec 2) :=
  (List.range n).map (fun m => (s.read pos m, BitVec.ofNat 2 (s.readPass 1 src m)))

/-- The symbols of all four categories with their indices, in the order of R292. -/
def State.muxStream (s : State) : List (Nat × BitVec 2) :=
  s.stream .posAck .bAck s.uci.gack.toNat ++ s.stream .posCsi1 .bCsi1 s.uci.gcsi1.toNat
    ++ s.stream .posCsi2 .bCsi2 s.uci.gcsi2.toNat ++ s.stream .posUlsch .bUlsch s.uci.gulsch.toNat

/-- No HARQ-ACK symbol to be placed is a marker (R292). -/
def State.ackPlain (s : State) : Bool := (List.range s.uci.gack.toNat).all (fun m => s.read .bAck m < 2)

/-- `UCI.MUX` (R292). -/
def execUciMux (s : State) : Host.Outcome State Fault Refusal :=
  .next <| s.complete <|
    require s.uci.valid .badState <|
    require (2 < s.uci.oack.toNat → s.ackPlain) .badOperand <|
    .ok { s with
      mem := { s.mem with gout := Bank.empty.setAll s.muxStream }
      uci := { s.uci with gstate := .muxed }
      r := { s.r with r0 := s.uci.gtot } }

/-- `GOUT[i]` as it stands in the course of `UCI.SCRAMBLE` (R296). -/
def State.goutAt (s : State) (b : Bank 2) (i : Nat) : Nat := ((b.get i).map BitVec.toNat).getD (s.anyValue 0 .gout i)

/-- The value index `i` gets: a placeholder becomes 1, a repetition copies the bit processed before it, a bit is scrambled
(R296). -/
def State.scrambleAt (s : State) (b : Bank 2) (i : Nat) : Nat :=
  if s.goutAt b i = 2 then 1
  else if s.goutAt b i = 3 then s.goutAt b (i - 1)
  else s.goutAt b i ^^^ s.read .scr i

/-- The loop of R296, strictly in ascending index. -/
def State.scrambled (s : State) (n : Nat) : Bank 2 :=
  (List.range n).foldl (fun b i => b.set i (BitVec.ofNat 2 (s.scrambleAt b i))) s.mem.gout

/-- `UCI.SCRAMBLE` (R296). -/
def execUciScramble (s : State) : Host.Outcome State Fault Refusal :=
  .next <| s.complete <|
    require (s.uci.valid = true ∧ s.uci.gstate = .muxed) .badState <|
    require (¬(0 < s.uci.gtot.toNat ∧ s.read .gout 0 = 3)) .badOperand <|
    .ok { s with
      mem := { s.mem with gout := s.scrambled s.uci.gtot.toNat }
      uci := { s.uci with gstate := .scrambled }
      r := { s.r with r0 := s.uci.gtot } }

/-- The received values of one category, by position (R299). -/
def State.gathered (s : State) (pos : Space) (n : Nat) : List Byte :=
  (List.range n).map (fun m => byte (s.read .lin (s.read pos m)))

/-- `UCI.DEMUX` (R299). Elements beyond each count are unspecified (20_memory.md R73). -/
def execUciDemux (s : State) : Host.Outcome State Fault Refusal :=
  .next <| s.complete <|
    require s.uci.valid .badState <|
    .ok { s with
      mem := { s.mem with
        lAck := Bank.ofList (s.gathered .posAck s.uci.gack.toNat)
        lCsi1 := Bank.ofList (s.gathered .posCsi1 s.uci.gcsi1.toNat)
        lCsi2 := Bank.ofList (s.gathered .posCsi2 s.uci.gcsi2.toNat)
        lUlsch := Bank.ofList (s.gathered .posUlsch s.uci.gulsch.toNat) }
      r := { s.r with r0 := s.uci.gtot } }

end Sys2Proof.Machine
end

