-- ==== Sys2Proof/Machine/Dispatch.lean ====
section
/-! DEFINITION. The dispatch of a decoded instruction to its meaning: one arm per constructor of Instr. A meaning runs the rule of
its command after the entry sequence of 60_exceptions.md R321 (lock, decode) and completes it. -/

namespace Sys2Proof.Machine

def exec (i : Instr) (s : State) : Host.Outcome State Fault Refusal :=
  match i with
  | .sysNop => Sys2Proof.Machine.execSysNop s
  | .sysReset => Sys2Proof.Machine.execSysReset s
  | .csrWr csr value => Sys2Proof.Machine.execCsrWr csr value s
  | .memWr space data addr => Sys2Proof.Machine.execMemWr space data addr s
  | .memRd space addr => Sys2Proof.Machine.execMemRd space addr s
  | .macInitTx dir tbLen => Sys2Proof.Machine.execMacInitTx dir tbLen s
  | .macInitRx dir => Sys2Proof.Machine.execMacInitRx dir s
  | .macAddSdu lcid len addr => Sys2Proof.Machine.execMacAddSdu lcid len addr s
  | .macAddCrntiCe rnti => Sys2Proof.Machine.execMacAddCrntiCe rnti s
  | .macAddSePhrCe phr pcmax => Sys2Proof.Machine.execMacAddSePhrCe phr pcmax s
  | .macAddSbsrCe lcg bs => Sys2Proof.Machine.execMacAddSbsrCe lcg bs s
  | .macAddConresCe id => Sys2Proof.Machine.execMacAddConresCe id s
  | .macPack => Sys2Proof.Machine.execMacPack s
  | .macUnpack len => Sys2Proof.Machine.execMacUnpack len s
  | .macGetSubpdu index => Sys2Proof.Machine.execMacGetSubpdu index s
  | .macGetLbsr index => Sys2Proof.Machine.execMacGetLbsr index s
  | .macRelease => Sys2Proof.Machine.execMacRelease s
  | .macChkLcid lcid dir => Sys2Proof.Machine.execMacChkLcid lcid dir s
  | .rbInit cfg start n => Sys2Proof.Machine.execRbInit cfg start n s
  | .rbClear => Sys2Proof.Machine.execRbClear s
  | .rbAddInterval start stop => Sys2Proof.Machine.execRbAddInterval start stop s
  | .rbAddRbgs mask => Sys2Proof.Machine.execRbAddRbgs mask s
  | .rbAddGrant => Sys2Proof.Machine.execRbAddGrant s
  | .rbCollides => Sys2Proof.Machine.execRbCollides s
  | .rbFindNext startIdx lastIdx => Sys2Proof.Machine.execRbFindNext startIdx lastIdx s
  | .rbFindLen startIdx nofPrbs => Sys2Proof.Machine.execRbFindLen startIdx nofPrbs s
  | .rbGrantSetInterval start stop => Sys2Proof.Machine.execRbGrantSetInterval start stop s
  | .rbGrantSetRbgs mask => Sys2Proof.Machine.execRbGrantSetRbgs mask s
  | .rbGrantType => Sys2Proof.Machine.execRbGrantType s
  | .rbGrantGetPrbs => Sys2Proof.Machine.execRbGrantGetPrbs s
  | .rbGrantGetRbgs => Sys2Proof.Machine.execRbGrantGetRbgs s
  | .rbGrantEncode => Sys2Proof.Machine.execRbGrantEncode s
  | .rbGrantDecode type field => Sys2Proof.Machine.execRbGrantDecode type field s
  | .rbPrb2Rbg prb => Sys2Proof.Machine.execRbPrb2Rbg prb s
  | .uciGenMux => Sys2Proof.Machine.execUciGenMux s
  | .uciMux => Sys2Proof.Machine.execUciMux s
  | .uciScramble => Sys2Proof.Machine.execUciScramble s
  | .uciDemux => Sys2Proof.Machine.execUciDemux s
  | .subhdr1B r f lcid => Sys2Proof.Machine.execSubhdr1B r f lcid s
  | .subhdr2B r lcid len => Sys2Proof.Machine.execSubhdr2B r lcid len s
  | .subhdr3B r lcid len => Sys2Proof.Machine.execSubhdr3B r lcid len s

end Sys2Proof.Machine
end

