-- ==== Sys2Proof/Machine/Entry.lean ====
section
/-! DEFINITION. The entry sequence of every command word (60_exceptions.md R321), and the two things a step can be: the host issues
its next command word, or (log entry 5) a parse in progress reads its next sub-header. -/

namespace Sys2Proof.Machine

/-- The exact `SYS.RESET` word, the only one the fatal lock lets pass (60_exceptions.md R321, R326). -/
def resetWord : CmdWord := 0x0100000000000000#64

/-- `step(w)` of 60_exceptions.md R321: the lock first, then decoding, then the rule of the command. -/
def entry (w : CmdWord) (s : State) : Host.Outcome State Fault Refusal :=
  if s.fatal.isSome ∧ w ≠ resetWord then .next (s.complete (.raise .locked))
  else
    match decode w with
    | .error _ => .next (s.complete (.raise .illegalCmd))
    | .ok i => exec i s

/-- The state in which the host has issued its next command word: the word has left the inbox and the draws of this command are
its own (log entries 1 and 3). -/
def State.issue (s : State) (rest : List CmdWord) : State := { s with inbox := rest, serial := s.serial + 1 }

/-- The host issues its next command word and the block executes it to completion (20_memory.md R80). With no word to issue the
block is idle and keeps all state (60_exceptions.md R338). -/
def stepCommand (s : State) : Host.Outcome State Fault Refusal :=
  match s.inbox with
  | [] => .next s
  | w :: rest => entry w (s.issue rest)

/-- The parse in progress reads the sub-header at its cursor and runs it (log entry 5). -/
def stepSubHeader (s : State) : Host.Outcome State Fault Refusal :=
  match s.fetchSubHeader s.cursor with
  | .error _ => .next ({ s with cursor := .idle }.complete (.raise .malformedPdu))
  | .ok i => exec i s

/-- A direction in which a sub-header pattern fits its LCID: with length bytes where `long`, without them otherwise. -/
def fittingDir (lcid : Nat) (long : Bool) : Dir := if hasLength lcid .ul = long then .ul else .dl

/-- The length of the shortest block that holds the sub-PDU a sub-header opens: the bytes of the sub-header itself where it opens
none (43_mac_parse.md R222). -/
def blockLength (dir : Dir) (nBytes : Nat) (h : SubHeader) : Nat :=
  match subPduSize dir 0 nBytes h with
  | .ok (hlen, slen) => max nBytes (hlen + slen)
  | .error _ => nBytes

/-- A parse in progress at the first byte of a block that starts with the given sub-header bytes (log entry 5). -/
def State.withSubHeader (s : State) (bytes : List Byte) : State :=
  match (decodeSubHeader bytes).toOption.bind subHeaderOf with
  | none => s
  | some h =>
    let dir := fittingDir h.lcid.toNat (h.len.isSome)
    { s with
      mem := { s.mem with tb := s.mem.tb.setFrom 0 bytes }
      mac := { s.mac with mode := .rx, dir := dir }
      cursor := ⟨0, blockLength dir bytes.length h, []⟩ }

/-- The state whose next step issues the given command word (log entry 1). -/
def State.withCommand (s : State) (w : CmdWord) : State := { s with inbox := w :: s.inbox, cursor := .idle }

end Sys2Proof.Machine
end

