-- ==== Sys2Proof/Machine/Step.lean ====
section
/-! DEFINITION. One step of the machine, and the state whose next step runs a given instruction. -/

namespace Sys2Proof.Machine

/-- One step: the block executes the next command word to completion (60_exceptions.md R321, 70_reset_and_hazards.md R360); only in
a state with a parse in progress, which no command leaves behind, it reads the next sub-header of that parse (log entry 5). -/
def step (s : State) : Host.Outcome State Fault Refusal :=
  if s.cursor.off < s.cursor.len then stepSubHeader s else stepCommand s

/-- `s` with an instruction, numbered as spec/opcode_table.json numbers it, stored where `step` fetches its next one: a command word
at the head of the host's inbox, a sub-header at the start of the block in `TB` with a parse in progress there. -/
def State.withFetchWord (s : State) (nbits w : Nat) : State :=
  match wireBytes nbits w with
  | [] => s.withCommand (BitVec.ofNat 64 w)
  | bytes => s.withSubHeader bytes

end Sys2Proof.Machine
end

