-- ==== Sys2Proof/Safety.lean ====
section
/-! DEFINITION. The terms claims are stated in: how a command ends, the invariants the spec gives the machine, and what a
block, a gap, a bitmap, an appended sub-PDU or the assignment of a symbol is. Nothing here runs. -/

namespace Sys2Proof.Safety

open Sys2Proof.Machine

/-- A run is safe at a step that answers a next state: S3B stops nowhere (60_exceptions.md R321). -/
def Runs (o : Host.Outcome State Fault Refusal) : Prop := ∃ t, o = .next t

/-- The state after a command that is refused with a code: only `STATUS` and `CSEQ` change (60_exceptions.md R322). -/
def refusedWith (s : State) (e : Code) : State := { s with status := e, cseq := s.cseq + 1 }

/-- The state after a command that completes `OK` and whose writes give `t` (60_exceptions.md R321). -/
def completedAs (s t : State) : State := { t with status := .ok, cseq := s.cseq + 1 }

/-! ### Invariants -/

/-- What the spec says of the MACU registers after every command (10_state.md R34, R35): no parse is in progress (R20). -/
structure MacInv (s : State) : Prop where
  noParse : s.cursor.len ≤ s.cursor.off
  tableFits : s.mac.sp.length ≤ s.params.spCap
  idle : s.mac.mode = .idle → s.mac = Mac.reset
  rx : s.mac.mode = .rx → s.mac.tbLen = 0 ∧ s.mac.remain = 0 ∧ s.mac.woff = 0 ∧ s.mac.sp = []
  rxDone : s.mac.mode = .rxDone → s.mac.remain = 0 ∧ s.mac.woff = 0 ∧ s.mac.tbLen.toNat ≤ s.params.tbCap
  tx : s.mac.mode = .tx →
    s.mac.woff.toNat + s.mac.remain.toNat = s.mac.tbLen.toNat ∧ s.mac.tbLen.toNat ≤ s.params.tbCap

/-- The bytes of a sub-PDU on the wire: `hlen + slen` (10_state.md R50). -/
def wireSize (d : Desc) : Nat := d.hlen.toNat + d.slen.toNat

/-- The bytes of a list of sub-PDUs on the wire. -/
def wireTotal (ds : List Desc) : Nat := (ds.map wireSize).sum

/-- The invariants of the pack path (44_mac_pack.md R270): offsets and `woff` are sums over the table, the bytes written have
definite values and parse to exactly the table; a padding entry is only there when nothing is left to fill (R266). -/
structure PackInv (s : State) : Prop where
  offsets : s.mac.mode = .tx → ∀ (i : Nat) (d : Desc), s.mac.sp[i]? = some d →
    d.soff.toNat = wireTotal (s.mac.sp.take i) + d.hlen.toNat
  written : s.mac.mode = .tx → s.mac.woff.toNat = wireTotal s.mac.sp
  defined : s.mac.mode = .tx → ∀ a, a < s.mac.woff.toNat → (s.peek .tb a).isSome
  padded : s.mac.mode = .tx → ∀ d ∈ s.mac.sp, d.lcid = 63 → s.mac.remain = 0
  parses : s.mac.mode = .tx →
    s.parseLoop s.mac.woff.toNat ⟨0, s.mac.woff.toNat, []⟩ = .ok ⟨s.mac.woff.toNat, s.mac.woff.toNat, s.mac.sp⟩

/-- What the spec says of RBAU after every command: the geometry is derived from `n`, `start` and `cfg` (10_state.md R38,
41_rb_allocator.md R160, R161), bits at or above `n` and `nrbg` are 0 (10_state.md R52), a set PRB has its RBG set
(41_rb_allocator.md R162), and a stored interval is one (10_state.md R54, 42_grant_codec.md R190). -/
structure RbInv (s : State) : Prop where
  unset : s.rb.nprb = 0 → { s.rb with gr := Rb.reset.gr } = Rb.reset
  bwp : s.rb.nprb ≠ 0 → s.rb.start.toNat + s.rb.nprb.toNat ≤ Config.maxPrb
  p : s.rb.nprb ≠ 0 → s.rb.p.toNat = rbgP s.rb.nprb.toNat s.rb.cfg
  first : s.rb.nprb ≠ 0 → s.rb.first.toNat = s.rb.p.toNat - s.rb.start.toNat % s.rb.p.toNat
  nrbg : s.rb.nprb ≠ 0 →
    s.rb.nrbg.toNat = ceilDiv (s.rb.nprb.toNat + s.rb.start.toNat % s.rb.p.toNat) s.rb.p.toNat
  rbgCount : s.rb.nprb ≠ 0 → 1 ≤ s.rb.nrbg.toNat ∧ s.rb.nrbg.toNat ≤ Config.maxRbg
  prbTop : ∀ i, s.rb.nprb.toNat ≤ i → s.rb.prbs.getLsbD i = false
  rbgTop : ∀ g, s.rb.nrbg.toNat ≤ g → s.rb.rbgs.getLsbD g = false
  consistent : ∀ i, s.rb.prbs.getLsbD i = true → s.rb.rbgs.getLsbD (s.rb.toRbg i) = true
  interval : ∀ start stop, s.rb.gr = .type1 start stop → start.toNat ≤ stop.toNat ∧ stop.toNat ≤ Config.maxPrb

/-- What the spec says of UCIU after every command: nothing is valid without a successful `UCI.GEN_MUX` (10_state.md R26, R46,
R48), the position memories hold its result for the current configuration, and `GOUT` holds the sequence its state names. -/
structure UciInv (s : State) : Prop where
  invalid : s.uci.valid = false → s.uci.gtot = 0 ∧ s.uci.gstate = .empty
  positions : s.uci.valid = true → ∃ p, s.uci.genMux s.params.gCap = .ok p
    ∧ (∀ m, s.peek .posAck m = p.pa[m]?) ∧ (∀ m, s.peek .posCsi1 m = p.p1[m]?)
    ∧ (∀ m, s.peek .posCsi2 m = p.p2[m]?) ∧ (∀ m, s.peek .posUlsch m = p.pu[m]?)
  total : s.uci.valid = true → s.uci.gtot.toNat = s.uci.codedBits
  multiplexed : s.uci.gstate ≠ .empty → ∀ i, i < s.uci.gtot.toNat → (s.peek .gout i).isSome
  scrambled : s.uci.gstate = .scrambled → ∀ i v, i < s.uci.gtot.toNat → s.peek .gout i = some v → v ≤ 1

/-! ### Blocks, gaps, appended sub-PDUs -/

/-- The descriptor `d` is what the sub-header at offset `off` of a block of `len` bytes opens (43_mac_parse.md R222), the bytes of
the block given as numbers. -/
def Opens (dir : Dir) (byteAt : Nat → Nat) (len off : Nat) (d : Desc) : Prop :=
  d.lcid.toNat = byteAt off % 64
    ∧ d.f.toNat = byteAt off / 64 % 2
    ∧ d.soff.toNat = off + d.hlen.toNat
    ∧ off + d.hlen.toNat + d.slen.toNat ≤ len
    ∧ isValidLcid d.lcid.toNat dir = true
    ∧ (if hasLength d.lcid.toNat dir then
        if d.f then d.hlen = 3 ∧ d.slen.toNat = 256 * byteAt (off + 1) + byteAt (off + 2)
        else d.hlen = 2 ∧ d.slen.toNat = byteAt (off + 1)
      else if d.lcid = 63 then d.hlen = 1 ∧ d.slen.toNat = len - off - 1
      else d.hlen = 1 ∧ ceSize d.lcid.toNat dir = some d.slen.toNat)

/-- The bytes from offset `off` up to offset `stop` of a block of `len` bytes are the sub-PDUs of a list, in order and without gap
(30_encoding.md R110). -/
def ParsesUpTo (dir : Dir) (byteAt : Nat → Nat) (len : Nat) : Nat → List Desc → Nat → Prop
  | off, [], stop => off = stop
  | off, d :: ds, stop => off < len ∧ Opens dir byteAt len off d ∧ ParsesUpTo dir byteAt len (off + wireSize d) ds stop

/-- The bytes from offset `off` to the end of a block of `len` bytes are the sub-PDUs of a list. -/
abbrev BlockParses (dir : Dir) (byteAt : Nat → Nat) (len off : Nat) (ds : List Desc) : Prop :=
  ParsesUpTo dir byteAt len off ds len

/-- A maximal run of clear bits `a <= p < b` that begins at or after `s0` and ends at or before `hi`
(41_rb_allocator.md R175, R177). -/
def IsGap (prbs : BitVec 275) (s0 hi a b : Nat) : Prop :=
  s0 ≤ a ∧ a < b ∧ b ≤ hi
    ∧ (∀ p, a ≤ p → p < b → prbs.getLsbD p = false)
    ∧ (a = s0 ∨ prbs.getLsbD (a - 1) = true)
    ∧ (b = hi ∨ prbs.getLsbD b = true)

/-- The state `t` is `s` with one sub-PDU appended to the block (44_mac_pack.md R251): its bytes at `woff`, its descriptor, the
counts; `pay i v` says which values the payload byte `i` may have. Nothing else of the block, no other space and no other unit
changes. -/
structure Appended (s t : State) (lcid : BitVec 6) (f : Bool) (hlen slen : Nat) (pay : Nat → Nat → Prop) : Prop where
  others : t = { s with status := .ok, cseq := s.cseq + 1, r := t.r, mac := t.mac, mem := { s.mem with tb := t.mem.tb } }
  header : t.peek .tb s.mac.woff.toNat = some (64 * f.toNat + lcid.toNat)
  length2 : hlen = 2 → t.peek .tb (s.mac.woff.toNat + 1) = some slen
  length3 : hlen = 3 → t.peek .tb (s.mac.woff.toNat + 1) = some (slen / 256)
    ∧ t.peek .tb (s.mac.woff.toNat + 2) = some (slen % 256)
  payload : ∀ i, i < slen → ∃ v, t.peek .tb (s.mac.woff.toNat + hlen + i) = some v ∧ pay i v
  rest : ∀ a, ¬(s.mac.woff.toNat ≤ a ∧ a < s.mac.woff.toNat + (hlen + slen)) → t.peek .tb a = s.peek .tb a
  table : ∃ d, t.mac.sp = s.mac.sp ++ [d] ∧ d.lcid = lcid ∧ d.f = f ∧ d.hlen.toNat = hlen ∧ d.slen.toNat = slen
    ∧ d.soff.toNat = s.mac.woff.toNat + hlen
  woff : t.mac.woff.toNat = s.mac.woff.toNat + (hlen + slen)
  remain : t.mac.remain.toNat = s.mac.remain.toNat - (hlen + slen)
  session : t.mac.mode = s.mac.mode ∧ t.mac.dir = s.mac.dir ∧ t.mac.tbLen = s.mac.tbLen

/-- The number of groups below `i` that a Long BSR bitmap flags (43_mac_parse.md R230). -/
def groupsBelow (bm i : Nat) : Nat := ((List.range i).filter (fun j => bm.testBit j)).length

/-- `base(l)` of 45_uci_mux.md R282: the first coded-bit index of symbol `l`. -/
def symbolBase (u : Uci) (l : Nat) : Nat := u.nl.toNat * u.qm.toNat * ((List.range l).map u.mscAt).sum

/-- A value that a read of an element may give: its definite value, or any value of the width where its content is unspecified
(20_memory.md R73). -/
def MayRead (s : State) (sp : Space) (a v : Nat) : Prop := v < 2 ^ sp.width ∧ ∀ x, s.peek sp a = some x → v = x

/-! ### Position generation, as 45_uci_mux.md R283 and R285 write it -/

/-- `MSC[l]` (10_state.md R56). -/
def mscOf (s : State) (l : Nat) : Nat := (s.peek .msc l).getD 0

/-- `MUCI[l]` (10_state.md R56). -/
def muciOf (s : State) (l : Nat) : Nat := (s.peek .muci l).getD 0

/-- `K = Nl * Qm` (R282). -/
def bitsPerRe (s : State) : Nat := s.uci.nl.toNat * s.uci.qm.toNat

/-- `Grvd` of R283: the reservation is active for at most two HARQ-ACK bits. -/
def reservation (s : State) : Nat := if s.uci.oack.toNat ≤ 2 then s.uci.gackrvd.toNat else 0

/-- `out` is `pick(cands, rem)` (R285): all candidates where they carry at most `rem` bits, else `rem div K` of them, every `d`-th
one with `d = (C*K) div rem`. -/
def IsPick (k : Nat) (cands : List Nat) (rem : Nat) (out : List Nat) : Prop :=
  if cands.length * k ≤ rem then out = cands
  else out.length = rem / k
    ∧ ∀ i, i < rem / k → i * (cands.length * k / rem) < cands.length ∧ out[i]? = cands[i * (cands.length * k / rem)]?

/-- The coded-bit indices of the resource elements of symbol `l` that `f` names, ascending (R282). -/
def indicesWhere (s : State) (l : Nat) (f : Nat → Bool) : List Nat :=
  ((List.range (mscOf s l)).filter f).flatMap
    (fun j => (List.range (bitsPerRe s)).map (fun k => symbolBase s.uci l + j * bitsPerRe s + k))

/-- The resource elements of symbol `l` that are not among `taken`, ascending (R283: candidates "in neither"). -/
def elementsOutside (s : State) (l : Nat) (taken : List Nat) : List Nat :=
  (List.range (mscOf s l)).filter (fun j => j ∉ taken)

/-- The elements `rl`, `al`, `c1`, `c2` of symbol `l` that are reserved, carry HARQ-ACK, CSI part 1 and CSI part 2 (R283, steps 1 to
4), where `p` holds the lists and `rvd` is `m_rvd` before the symbol. -/
structure SymbolSets (s : State) (l : Nat) (p : MuxLists) (rvd : Nat) (rl al c1 c2 : List Nat) : Prop where
  reserved : if s.uci.oack.toNat ≤ 2 ∧ s.uci.l1.toNat ≤ l ∧ rvd < reservation s
    then IsPick (bitsPerRe s) (List.range (mscOf s l)) (reservation s - rvd) rl
    else rl = []
  ackReserved : s.uci.oack.toNat ≤ 2 →
    if rl ≠ [] ∧ p.pa.length < s.uci.gack.toNat then IsPick (bitsPerRe s) rl (s.uci.gack.toNat - p.pa.length) al else al = []
  ackAnywhere : 2 < s.uci.oack.toNat →
    if s.uci.l1.toNat ≤ l ∧ p.pa.length < s.uci.gack.toNat
    then IsPick (bitsPerRe s) (List.range (mscOf s l)) (s.uci.gack.toNat - p.pa.length) al
    else al = []
  csi1 : if s.uci.l1csi.toNat ≤ l ∧ elementsOutside s l (al ++ rl) ≠ [] ∧ p.p1.length < s.uci.gcsi1.toNat
    then IsPick (bitsPerRe s) (elementsOutside s l (al ++ rl)) (s.uci.gcsi1.toNat - p.p1.length) c1
    else c1 = []
  csi2 : if s.uci.l1csi.toNat ≤ l ∧ elementsOutside s l (al ++ c1) ≠ [] ∧ p.p2.length < s.uci.gcsi2.toNat
    then IsPick (bitsPerRe s) (elementsOutside s l (al ++ c1)) (s.uci.gcsi2.toNat - p.p2.length) c2
    else c2 = []

/-- What symbol `l` assigns (R283): nothing without resource elements, all to UL-SCH without UCI capacity, else each element to
the first of HARQ-ACK, CSI part 1, CSI part 2 whose set holds it, the rest to UL-SCH. The lists and `m_rvd` before the symbol are
`p`, `rvd`, those after it `p'`, `rvd'`. -/
def AssignsSymbol (s : State) (l : Nat) (p : MuxLists) (rvd : Nat) (p' : MuxLists) (rvd' : Nat) : Prop :=
  (mscOf s l = 0 → p' = p ∧ rvd' = rvd)
    ∧ (mscOf s l ≠ 0 → muciOf s l = 0 → p' = { p with pu := p.pu ++ indicesWhere s l (fun _ => true) } ∧ rvd' = rvd)
    ∧ (mscOf s l ≠ 0 → muciOf s l ≠ 0 → ∃ rl al c1 c2 : List Nat, SymbolSets s l p rvd rl al c1 c2
        ∧ rvd' = rvd + bitsPerRe s * rl.length
        ∧ p'.pa = p.pa ++ indicesWhere s l (fun j => j ∈ al)
        ∧ p'.p1 = p.p1 ++ indicesWhere s l (fun j => j ∉ al ∧ j ∈ c1)
        ∧ p'.p2 = p.p2 ++ indicesWhere s l (fun j => j ∉ al ∧ j ∉ c1 ∧ j ∈ c2)
        ∧ p'.pu = p.pu ++ indicesWhere s l (fun j => j ∉ al ∧ j ∉ c1 ∧ j ∉ c2))

/-- The loop of R283 ends with the lists `q`: 14 symbols from empty lists and `m_rvd = 0`. -/
def GeneratesPositions (s : State) (q : MuxLists) : Prop :=
  ∃ (p : Nat → MuxLists) (rvd : Nat → Nat), p 0 = ⟨[], [], [], []⟩ ∧ rvd 0 = 0
    ∧ (∀ l, l < 14 → AssignsSymbol s l (p l) (rvd l) (p (l + 1)) (rvd (l + 1))) ∧ p 14 = q

/-- The lists are as long as the four targets: the final count test of R283. -/
def MeetsTargets (s : State) (q : MuxLists) : Prop :=
  q.pa.length = s.uci.gack.toNat ∧ q.p1.length = s.uci.gcsi1.toNat ∧ q.p2.length = s.uci.gcsi2.toNat
    ∧ q.pu.length = s.uci.gulsch.toNat

/-- The coded bits that may carry UCI from symbol `l0` on (R283, "UCI capacity after `l1`"). -/
def uciCapacity (s : State) (l0 : Nat) : Nat :=
  bitsPerRe s * ((List.range 14).map (fun l => if l0 ≤ l then muciOf s l else 0)).sum

end Sys2Proof.Safety
end

