-- ==== Sys2Proof/Certificates/Slice0/Obligations.lean ====
section
/-! DEFINITION. The statements for the provers. Each docstring names the rule or the sentence of spec/ it formalises; a clause that
rests on a choice of the model names the log entry. `refusedWith s e` is the state after a refusal with code `e`, `completedAs s t`
the state after a completion whose writes give `t` (Sys2Proof/Safety.lean). -/

open Sys2Proof Sys2Proof.Machine Sys2Proof.Safety

/-! ## Encoding -/

/-- The words the spec writes out for its examples decode to the commands it writes them for, one or more of every family
(30_encoding.md R104 and the examples of files 40 to 45), and sub-header bytes to their sub-headers (R110, R111). -/
def Obligations.SpecWordsDecodeToTheirCommands : Prop :=
  decode 0x0000000000000000#64 = .ok .sysNop
    ∧ decode 0x0100000000000000#64 = .ok .sysReset
    ∧ decode 0x0233000000000002#64 = .ok (.csrWr 0x33#8 2#32)
    ∧ decode 0x030100AB00000003#64 = .ok (.memWr 1#8 0xAB#16 3#32)
    ∧ decode 0x1001000000000010#64 = .ok (.macInitTx .ul 16#32)
    ∧ decode 0x1204000300000000#64 = .ok (.macAddSdu 4#6 3#16 0#32)
    ∧ decode 0x1428003200000000#64 = .ok (.macAddSePhrCe 40#6 50#6)
    ∧ decode 0x1502001100000000#64 = .ok (.macAddSbsrCe 2#3 17#5)
    ∧ decode 0x1600112233445566#64 = .ok (.macAddConresCe 0x112233445566#48)
    ∧ decode 0x1C34000100000000#64 = .ok (.macChkLcid 52#6 .ul)
    ∧ decode 0x2000000000000034#64 = .ok (.rbInit .config1 0#16 52#32)
    ∧ decode 0x2300000000001000#64 = .ok (.rbAddRbgs 0x1000#19)
    ∧ decode 0x280000050000000F#64 = .ok (.rbGrantSetInterval 5#16 15#32)
    ∧ decode 0x2E010000000001D9#64 = .ok (.rbGrantDecode .type1 473#32)
    ∧ decode 0x3000000000000000#64 = .ok .uciGenMux
    ∧ decodeSubHeader [0x34#8] = .ok (.subhdr1B false false 52#6)
    ∧ decodeSubHeader [0x84#8, 0x01#8] = .ok (.subhdr2B true 4#6 1#8)
    ∧ decodeSubHeader [0x41#8, 0x01#8, 0x00#8] = .ok (.subhdr3B false 1#6 256#16)
    ∧ decode 0x0500000000000000#64 = .error .unknownOp
    ∧ decode 0x0233000100000002#64 = .error .reservedBits

/-- Decode and encode agree: every well-formed instruction, with every value of every operand, decodes from its encoding
(R100, R104, R110 to R112). -/
def Obligations.EncodedInstructionsDecodeBack : Prop :=
  ∀ i : Instr, i.wellFormed = true → decodeEncoding (encode i) = .ok i

/-- No two words mean the same: a word that decodes is the encoding of what it decodes to, on the command port and on the wire
(R101, R106, "no encoding that executes as a different command"; R111, R112). -/
def Obligations.DecodedWordsAreTheirEncodings : Prop :=
  (∀ (w : CmdWord) (i : Instr), decode w = .ok i → encode i = .command w)
    ∧ (∀ (bytes : List Byte) (i : Instr), decodeSubHeader bytes = .ok i → encode i = .wire bytes)

/-- `mask` and `match` of the 38 command rows, from spec/opcode_table.json. -/
def opcodeRows : List (CmdWord × CmdWord) :=
  [(0xFFFFFFFFFFFFFFFF#64, 0x0000000000000000#64), (0xFFFFFFFFFFFFFFFF#64, 0x0100000000000000#64),
   (0xFF00FFFF00000000#64, 0x0200000000000000#64), (0xFF00000000000000#64, 0x0300000000000000#64),
   (0xFF00FFFF00000000#64, 0x0400000000000000#64), (0xFFFEFFFF00000000#64, 0x1000000000000000#64),
   (0xFFFEFFFFFFFFFFFF#64, 0x1100000000000000#64), (0xFFC0000000000000#64, 0x1200000000000000#64),
   (0xFFFFFFFFFFFF0000#64, 0x1300000000000000#64), (0xFFC0FFC0FFFFFFFF#64, 0x1400000000000000#64),
   (0xFFF8FFE0FFFFFFFF#64, 0x1500000000000000#64), (0xFFFF000000000000#64, 0x1600000000000000#64)]
  ++ [(0xFFFFFFFFFFFFFFFF#64, 0x1700000000000000#64), (0xFFFFFFFF00000000#64, 0x1800000000000000#64),
   (0xFFFFFFFF00000000#64, 0x1900000000000000#64), (0xFFFFFFFF00000000#64, 0x1A00000000000000#64),
   (0xFFFFFFFFFFFFFFFF#64, 0x1B00000000000000#64), (0xFFC0FFFEFFFFFFFF#64, 0x1C00000000000000#64),
   (0xFFFE000000000000#64, 0x2000000000000000#64), (0xFFFFFFFFFFFFFFFF#64, 0x2100000000000000#64),
   (0xFFFF000000000000#64, 0x2200000000000000#64), (0xFFFFFFFFFFF80000#64, 0x2300000000000000#64),
   (0xFFFFFFFFFFFFFFFF#64, 0x2400000000000000#64), (0xFFFFFFFFFFFFFFFF#64, 0x2500000000000000#64)]
  ++ [(0xFFFF000000000000#64, 0x2600000000000000#64), (0xFFFF000000000000#64, 0x2700000000000000#64),
   (0xFFFF000000000000#64, 0x2800000000000000#64), (0xFFFFFFFFFFF80000#64, 0x2900000000000000#64),
   (0xFFFFFFFFFFFFFFFF#64, 0x2A00000000000000#64), (0xFFFFFFFFFFFFFFFF#64, 0x2B00000000000000#64),
   (0xFFFFFFFFFFFFFFFF#64, 0x2C00000000000000#64), (0xFFFFFFFFFFFFFFFF#64, 0x2D00000000000000#64),
   (0xFFFEFFFF00000000#64, 0x2E00000000000000#64), (0xFFFFFFFF00000000#64, 0x2F00000000000000#64),
   (0xFFFFFFFFFFFFFFFF#64, 0x3000000000000000#64), (0xFFFFFFFFFFFFFFFF#64, 0x3100000000000000#64),
   (0xFFFFFFFFFFFFFFFF#64, 0x3200000000000000#64), (0xFFFFFFFFFFFFFFFF#64, 0x3300000000000000#64)]

/-- R102: a word decodes exactly where `(w AND mask) = match` for a row of the table; every other word is illegal. -/
def Obligations.DecodingTestsMaskAndMatch : Prop :=
  ∀ w : CmdWord, (∃ i, decode w = .ok i) ↔ ∃ row ∈ opcodeRows, w &&& row.1 = row.2

/-! ## The step -/

/-- R321 and R80: a block that is not locked, or the exact reset word, runs the instruction the issued word decodes to; with nothing to
issue the block is idle and keeps all state (R338). The model's choice: the words still to be issued are the inbox, of which a step takes
the first (log entry 1), `serial` counts the words issued (log entry 3), and no parse is in progress (log entry 5). -/
def Obligations.StepRunsTheDecodedCommand : Prop :=
  ∀ s : State, s.cursor.len ≤ s.cursor.off →
    (s.inbox = [] → step s = .next s)
    ∧ (∀ (w : CmdWord) (rest : List CmdWord) (i : Instr), s.inbox = w :: rest → s.fatal = none ∨ w = resetWord →
        decode w = .ok i → step s = exec i { s with inbox := rest, serial := s.serial + 1 })

/-- The model's choice (log entry 5): with a parse in progress the step runs the sub-header that stands at its cursor; the bytes there
are those R110 to R112 give (one, and one or two length bytes where the LCID carries a length that is not cut off). -/
def Obligations.StepRunsTheSubHeaderOfTheParse : Prop :=
  ∀ (s : State) (i : Instr) (bytes : List Byte), s.cursor.off < s.cursor.len →
    encode i = .wire bytes →
    bytes.length = (if hasLength (s.read .tb s.cursor.off % 64) s.mac.dir
        ∧ s.cursor.off + 1 + (if s.read .tb s.cursor.off / 64 % 2 = 1 then 2 else 1) ≤ s.cursor.len
      then (if s.read .tb s.cursor.off / 64 % 2 = 1 then 3 else 2) else 1) →
    (∀ k b, bytes[k]? = some b → s.read .tb (s.cursor.off + k) = b.toNat) →
    step s = exec i s

/-- R106: a word that decodes as illegal completes with `E_ILLEGAL_CMD` (0x10) and changes nothing else but `CSEQ`; every reserved
`op` value is such a word, and so is a word that fails its row's zeros. (Inbox, `serial`, parse: the model's, log entries 1, 3, 5.) -/
def Obligations.IllegalWordsChangeStatusAndCount : Prop :=
  (∀ (s : State) (w : CmdWord) (rest : List CmdWord) (e : Illegal), s.cursor.len ≤ s.cursor.off → s.inbox = w :: rest →
      s.fatal = none → decode w = .error e →
      step s = .next (refusedWith { s with inbox := rest, serial := s.serial + 1 } .illegalCmd)
        ∧ (refusedWith s .illegalCmd).csrRead 0x01 = 0x10#32)
    ∧ (∀ w : CmdWord, (0x05 ≤ (opField w).toNat ∧ (opField w).toNat ≤ 0x0F) ∨ (0x1D ≤ (opField w).toNat ∧ (opField w).toNat ≤ 0x1F)
        ∨ 0x34 ≤ (opField w).toNat → decode w = .error .unknownOp)
    ∧ (∀ w : CmdWord, (∀ row ∈ opcodeRows, w &&& row.1 ≠ row.2) → ∃ e, decode w = .error e)

/-- R326: a fatal error reports its code, locks the block and changes nothing else; while locked, every word but the exact reset word
completes with `E_LOCKED` and changes only `STATUS` and `CSEQ`, the first cause stays, and the reset word unlocks. (Inbox, `serial`, parse: the
model's choice, log entries 1, 3, 5.) -/
def Obligations.FatalErrorsLockTheBlock : Prop :=
  (∀ (s : State) (c : FatalCause), s.fatal = none →
      s.complete (.fatal c) = { s with status := c.code, fatal := some c, cseq := s.cseq + 1 }
        ∧ (s.complete (.fatal c)).csrRead 0x02 = word (1 + 256 * c.code.value))
    ∧ (∀ (s : State) (c : FatalCause) (w : CmdWord) (rest : List CmdWord), s.cursor.len ≤ s.cursor.off →
        s.inbox = w :: rest → s.fatal = some c →
        (w ≠ 0x0100000000000000#64 → step s = .next (refusedWith { s with inbox := rest, serial := s.serial + 1 } .locked))
        ∧ (w = 0x0100000000000000#64 → ∃ t, step s = .next t ∧ t.fatal = none ∧ t.status = .ok))

/-- R322: a command that completes with any code other than `OK` changes only `STATUS` and `CSEQ`, and for a fatal `FATAL`: the meaning
of every command, and the entry of every command word, illegal ones and those the lock turns away among them. -/
def Obligations.RefusedCommandsHaveNoSideEffects : Prop :=
  (∀ (i : Instr) (s t : State), i.isSubHeader = false → exec i s = .next t → t.status ≠ .ok →
    t = { s with status := t.status, cseq := s.cseq + 1, fatal := t.fatal } ∧ (t.fatal ≠ s.fatal → t.status = .fVariant))
  ∧ ∀ (w : CmdWord) (s t : State), entry w s = .next t → t.status ≠ .ok →
    t = { s with status := t.status, cseq := s.cseq + 1, fatal := t.fatal } ∧ (t.fatal ≠ s.fatal → t.status = .fVariant)

/-- R195: only the two accessors of `GR` can be fatal, and each only on the variant that is not active. -/
def Obligations.OnlyGrantAccessorsAreFatal : Prop :=
  ∀ (i : Instr) (s t : State), i.isSubHeader = false → exec i s = .next t → t.status = .fVariant ∨ t.status = .fState →
    t.status = .fVariant ∧ ((i = .rbGrantGetPrbs ∧ ∃ mask, s.rb.gr = .type0 mask)
      ∨ (i = .rbGrantGetRbgs ∧ ∃ start stop, s.rb.gr = .type1 start stop))

/-- R321 ("the sequence is total") and R24: every step answers a next state; every command but `SYS.RESET` adds one to `CSEQ` modulo
`2^32`, whatever its status, and `SYS.RESET` sets it to 0. -/
def Obligations.EveryStepCompletesAndCounts : Prop :=
  (∀ s : State, ∃ t, step s = .next t)
    ∧ (∀ (i : Instr) (s : State), ∃ t, exec i s = .next t
        ∧ (i.isSubHeader = false → i ≠ .sysReset → t.cseq.toNat = (s.cseq.toNat + 1) % 2 ^ 32)
        ∧ (i = .sysReset → t.cseq = 0))

/-- The units do not touch each other (10_state.md R20, the "Writes" lines of files 40 to 45): no command changes the model's own
fields `params`, `inbox`, `serial` (log entries 2, 1, 3), only MACU commands change MACU, only RBAU commands RBAU, only the commands
named change UCIU's registers, and no command but those named changes an element of an unspecified-at-reset space. -/
def Obligations.CommandsOfOneUnitLeaveTheOthers : Prop :=
  ∀ (i : Instr) (s t : State), exec i s = .next t →
    (t.params = s.params ∧ t.inbox = s.inbox ∧ t.serial = s.serial)
    ∧ ((∀ w, encode i = .command w → 0x02 ≤ (opField w).toNat ∧ ((opField w).toNat < 0x10 ∨ 0x20 ≤ (opField w).toNat)) →
        i.isSubHeader = false → t.mac = s.mac)
    ∧ ((∀ w, encode i = .command w → (opField w).toNat ≠ 0x01 ∧ ((opField w).toNat < 0x20 ∨ 0x30 ≤ (opField w).toNat)) →
        t.rb = s.rb)
    ∧ ((∀ w, encode i = .command w → (opField w).toNat = 0x00 ∨ (opField w).toNat = 0x04
          ∨ (0x10 ≤ (opField w).toNat ∧ (opField w).toNat < 0x30) ∨ (opField w).toNat = 0x33) → t.uci = s.uci)
    ∧ ((∀ w, encode i = .command w → (opField w).toNat ≤ 0x02 ∨ (opField w).toNat = 0x04 ∨ (opField w).toNat = 0x10
          ∨ (opField w).toNat = 0x11 ∨ (0x18 ≤ (opField w).toNat ∧ (opField w).toNat < 0x30)) → t.mem = s.mem)

/-! ## System, register and memory commands -/

/-- The values of R62 and R350: the result registers, every CSR, the grant, both bitmaps and both per-symbol tables, the empty descriptor
table, no fatal error. -/
def RegistersAtReset (t : State) : Prop :=
  t.r = ⟨0, 0, 0, 0⟩ ∧ t.rb.gr = .type1 0 0 ∧ t.mac.sp = [] ∧ t.fatal = none
    ∧ (∀ n : BitVec 8, t.csrRead n = if n = 0x00 then 0x53334230#32 else if n = 0x26 then 1#32 else 0#32)
    ∧ (∀ a, a < 275 → t.peek .prbs a = some 0) ∧ (∀ a, a < 19 → t.peek .rbgs a = some 0)
    ∧ (∀ a, a < 14 → t.peek .msc a = some 0 ∧ t.peek .muci a = some 0)

/-- R350 and R62: after `SYS.RESET`, after hardware reset in the course of a run and in the state a run starts from, every register has the
value these rules give: `SYS.RESET` leaves the spaces marked unspecified as they are, after hardware reset they hold nothing definite. The
model's choice: hardware reset in the course of a run is the function `hardReset` and no step, both resets keep `params`, `inbox` and
`serial` and leave no parse in progress (log entry 8; the fields themselves are log entries 2, 1, 3 and 5). -/
def Obligations.ResetSetsEveryRegister : Prop :=
  (∀ s : State, ∃ t, exec .sysReset s = .next t ∧ RegistersAtReset t
      ∧ t.cursor = .idle ∧ t.params = s.params ∧ t.inbox = s.inbox ∧ t.serial = s.serial ∧ t.mem = s.mem)
    ∧ (∀ s : State, RegistersAtReset s.hardReset
      ∧ s.hardReset.cursor = .idle ∧ s.hardReset.params = s.params ∧ s.hardReset.inbox = s.inbox ∧ s.hardReset.serial = s.serial
      ∧ ∀ (sp : Space) (a : Nat), sp ≠ .prbs → sp ≠ .rbgs → sp ≠ .msc → sp ≠ .muci → s.hardReset.peek sp a = none)
    ∧ (∀ s : State, s.hardReset = { State.reset with params := s.params, inbox := s.inbox, serial := s.serial })
    ∧ RegistersAtReset State.reset
    ∧ (∀ (sp : Space) (a : Nat), sp ≠ .prbs → sp ≠ .rbgs → sp ≠ .msc → sp ≠ .muci → State.reset.peek sp a = none)

/-- R140: `SYS.NOP`, the word of all zeros, completes `OK` and changes nothing but `STATUS` and `CSEQ`; while the block is locked the
step refuses it with `E_LOCKED`. (Inbox, `serial`, parse: the model's choice, log entries 1, 3, 5.) -/
def Obligations.NopOnlyCompletes : Prop :=
  decode 0x0000000000000000#64 = .ok .sysNop
    ∧ (∀ s : State, exec .sysNop s = .next (completedAs s s))
    ∧ ∀ (s : State) (rest : List CmdWord), s.cursor.len ≤ s.cursor.off → s.inbox = 0#64 :: rest → s.fatal ≠ none →
        step s = .next (refusedWith { s with inbox := rest, serial := s.serial + 1 } .locked)

/-- R143: `CSR.WR` refuses a number that is no CSR, then a read-only CSR; a configuration CSR takes all 32 bits, `UCI_VALID`, `UCI_GTOT`
and `UCI_GSTATE` become 0, and no other register or table changes. -/
def Obligations.CsrWriteStoresAndInvalidates : Prop :=
  ∀ (csr : BitVec 8) (v : Word) (s : State),
    decode (packWord 0x02 csr 0 v) = .ok (.csrWr csr v)
    ∧ (¬(csr.toNat ≤ 0x03 ∨ (0x10 ≤ csr.toNat ∧ csr.toNat ≤ 0x14) ∨ (0x20 ≤ csr.toNat ∧ csr.toNat ≤ 0x26)
        ∨ (0x30 ≤ csr.toNat ∧ csr.toNat ≤ 0x3D)) → exec (.csrWr csr v) s = .next (refusedWith s .badIndex))
    ∧ (csr.toNat ≤ 0x03 ∨ (0x10 ≤ csr.toNat ∧ csr.toNat ≤ 0x14) ∨ (0x20 ≤ csr.toNat ∧ csr.toNat ≤ 0x26)
        ∨ (0x3B ≤ csr.toNat ∧ csr.toNat ≤ 0x3D) → exec (.csrWr csr v) s = .next (refusedWith s .badOperand))
    ∧ (0x30 ≤ csr.toNat → csr.toNat ≤ 0x3A →
        ∃ t, exec (.csrWr csr v) s = .next t ∧ t = completedAs s { s with uci := t.uci }
          ∧ t.csrRead csr = v ∧ t.csrRead 0x3B = 0 ∧ t.csrRead 0x3C = 0 ∧ t.csrRead 0x3D = 0
          ∧ t.uci.msc = s.uci.msc ∧ t.uci.muci = s.uci.muci
          ∧ ∀ n : BitVec 8, 0x30 ≤ n.toNat → n.toNat ≤ 0x3A → n ≠ csr → t.csrRead n = s.csrRead n)

/-- The numbers of the status codes (60_exceptions.md R320). -/
def statusNumber : Code → Word
  | .ok => 0x00
  | .illegalCmd => 0x10
  | .badOperand => 0x11
  | .badState => 0x12
  | .badIndex => 0x13
  | .malformedPdu => 0x14
  | .unsupportedLcid => 0x15
  | .wrongDir => 0x16
  | .noSpace => 0x20
  | .tableFull => 0x21
  | .reMismatch => 0x22
  | .fVariant => 0xF0
  | .fState => 0xF1
  | .locked => 0xFF

/-- `MAC_CTRL` (10_state.md R34): `MODE` in bits 1:0, `DIR` in bit 4. -/
def macCtrlNumber (mode : Mode) (dir : Dir) : Word :=
  (match mode with | .idle => 0x00 | .tx => 0x01 | .rx => 0x02 | .rxDone => 0x03) ||| (match dir with | .dl => 0x00 | .ul => 0x10)

/-- What the host can address. The spaces of R71 and R75 as a table: the id, element width, size and host access of each; ids from 21 on do
not exist. The registers of R28 to R48 and R79: in every state the value the host reads from each CSR, a code of `STATUS` by its number of
R320, and from each result register; a number that is no CSR reads as 0. -/
def Obligations.SpacesAndRegistersTheHostSees : Prop :=
  ((∀ n sp, spaceOfId n = some sp ↔ sp.id = n) ∧ (∀ n, 21 ≤ n → spaceOfId n = none) ∧ (∀ n, n ≤ 20 → (spaceOfId n).isSome)
    ∧ (∀ sp : Space, [Space.tb, .pl, .prbs, .rbgs, .msc, .muci, .bAck, .bCsi1, .bCsi2, .bUlsch, .scr, .gout, .posAck, .posCsi1, .posCsi2,
        .posUlsch, .lin, .lAck, .lCsi1, .lCsi2, .lUlsch][sp.id]? = some sp)
    ∧ (∀ sp : Space, sp.hostWritable = true ↔ sp.id ∈ [0, 1, 4, 5, 6, 7, 8, 9, 10, 16])
    ∧ (∀ sp : Space, [8, 8, 1, 1, 16, 16, 2, 1, 1, 1, 1, 2, 32, 32, 32, 32, 8, 8, 8, 8, 8][sp.id]? = some sp.width)
    ∧ (∀ (sp : Space) (p : Config.Params), [p.tbCap, p.plCap, 275, 19, 14, 14][sp.id]?.getD p.gCap = sp.size p))
  ∧ ∀ s : State,
    (s.csrRead 0x00 = 0x53334230 ∧ s.csrRead 0x01 = statusNumber s.status
      ∧ s.csrRead 0x02 = (match s.fatal with | none => 0 | some .variant => 0xF001 | some .state => 0xF101)
      ∧ s.csrRead 0x03 = s.cseq)
    ∧ (s.csrRead 0x10 = macCtrlNumber s.mac.mode s.mac.dir ∧ s.csrRead 0x11 = s.mac.tbLen ∧ s.csrRead 0x12 = s.mac.remain
      ∧ s.csrRead 0x13 = s.mac.woff ∧ (s.mac.sp.length < 2 ^ 32 → (s.csrRead 0x14).toNat = s.mac.sp.length))
    ∧ ((s.csrRead 0x20).toNat = s.rb.nprb.toNat ∧ (s.csrRead 0x21).toNat = s.rb.start.toNat
      ∧ s.csrRead 0x22 = (match s.rb.cfg with | .config1 => 0 | .config2 => 1) ∧ (s.csrRead 0x23).toNat = s.rb.p.toNat
      ∧ (s.csrRead 0x24).toNat = s.rb.first.toNat ∧ (s.csrRead 0x25).toNat = s.rb.nrbg.toNat
      ∧ s.csrRead 0x26 = (match s.rb.gr with | .type0 _ => 0 | .type1 _ _ => 1))
    ∧ (s.csrRead 0x30 = s.uci.l1 ∧ s.csrRead 0x31 = s.uci.l1csi ∧ s.csrRead 0x32 = s.uci.nl ∧ s.csrRead 0x33 = s.uci.qm
      ∧ s.csrRead 0x34 = s.uci.oack ∧ s.csrRead 0x35 = s.uci.gack ∧ s.csrRead 0x36 = s.uci.gackrvd ∧ s.csrRead 0x37 = s.uci.gcsi1
      ∧ s.csrRead 0x38 = s.uci.gcsi2 ∧ s.csrRead 0x39 = s.uci.gulsch ∧ s.csrRead 0x3A = s.uci.nofre)
    ∧ (s.csrRead 0x3B = (if s.uci.valid then 1 else 0) ∧ s.csrRead 0x3C = s.uci.gtot
      ∧ s.csrRead 0x3D = (match s.uci.gstate with | .empty => 0 | .muxed => 1 | .scrambled => 2))
    ∧ (∀ n : BitVec 8, ¬(n.toNat ≤ 0x03 ∨ (0x10 ≤ n.toNat ∧ n.toNat ≤ 0x14) ∨ (0x20 ≤ n.toNat ∧ n.toNat ≤ 0x26)
        ∨ (0x30 ≤ n.toNat ∧ n.toNat ≤ 0x3D)) → s.csrRead n = 0)
    ∧ (s.regRead 0 = s.r.r0 ∧ s.regRead 1 = s.r.r1 ∧ s.regRead 2 = s.r.r2 ∧ s.regRead 3 = s.r.r3)

/-- R145: the four preconditions of `MEM.WR` in their order; then exactly the addressed element changes, and a write to `MSC` or `MUCI`
clears the three UCIU status registers, which no other write touches. -/
def Obligations.MemWriteChangesOneElement : Prop :=
  ∀ (space : BitVec 8) (data : BitVec 16) (addr : Word) (s : State),
    decode (packWord 0x03 space data addr) = .ok (.memWr space data addr)
    ∧ (21 ≤ space.toNat → exec (.memWr space data addr) s = .next (refusedWith s .badIndex))
    ∧ ∀ sp : Space, sp.id = space.toNat →
      (sp.size s.params ≤ addr.toNat → exec (.memWr space data addr) s = .next (refusedWith s .badIndex))
      ∧ (addr.toNat < sp.size s.params →
        (sp.hostWritable = false ∨ 2 ^ sp.width ≤ data.toNat → exec (.memWr space data addr) s = .next (refusedWith s .badOperand))
        ∧ (sp.hostWritable = true → data.toNat < 2 ^ sp.width →
          (sp = .tb ∧ (s.mac.mode = .tx ∨ s.mac.mode = .rxDone) →
            exec (.memWr space data addr) s = .next (refusedWith s .badState))
          ∧ (¬(sp = .tb ∧ (s.mac.mode = .tx ∨ s.mac.mode = .rxDone)) →
            ∃ t, exec (.memWr space data addr) s = .next t
              ∧ t = completedAs s { s with uci := t.uci, mem := t.mem }
              ∧ t.peek sp addr.toNat = some data.toNat
              ∧ (∀ (sp' : Space) (a : Nat), ¬(sp' = sp ∧ a = addr.toNat) → t.peek sp' a = s.peek sp' a)
              ∧ t.uci = { (if sp = .msc ∨ sp = .muci then { s.uci with valid := false, gtot := 0, gstate := .empty } else s.uci) with
                  msc := t.uci.msc, muci := t.uci.muci })))

/-- R147 and R73: `MEM.RD` refuses what does not exist; else `r[0]` holds the element's definite value, or a value of the element's
width where its content is unspecified, and nothing else changes. -/
def Obligations.MemReadReturnsTheElement : Prop :=
  ∀ (space : BitVec 8) (addr : Word) (s : State),
    (21 ≤ space.toNat → exec (.memRd space addr) s = .next (refusedWith s .badIndex))
    ∧ ∀ sp : Space, sp.id = space.toNat →
      (sp.size s.params ≤ addr.toNat → exec (.memRd space addr) s = .next (refusedWith s .badIndex))
      ∧ (addr.toNat < sp.size s.params → ∃ v, MayRead s sp addr.toNat v
          ∧ exec (.memRd space addr) s = .next (completedAs s { s with r := { s.r with r0 := word v } }))

/-! ## MACU -/

/-- Class and fixed size of an LCID, by the ranges of the two tables of 43_mac_parse.md R211. -/
def lcidTable (dir : Dir) (l : Nat) : Nat × Nat :=
  match dir with
  | .ul =>
    if l = 0 then (2, 8) else if l ≤ 32 then (1, 0) else if l ≤ 51 then (0, 0) else if l = 52 then (2, 6)
    else if l ≤ 56 then (6, 0) else if l = 57 then (3, 2) else if l = 58 then (3, 2) else if l = 59 then (3, 1)
    else if l = 60 then (4, 0) else if l = 61 then (3, 1) else if l = 62 then (4, 0) else (5, 0)
  | .dl =>
    if l ≤ 32 then (1, 0) else if l ≤ 46 then (0, 0) else if l ≤ 59 then (6, 0) else if l = 60 then (3, 0)
    else if l = 61 then (3, 1) else if l = 62 then (3, 6) else (5, 0)

/-- R218 with the tables of R211 to R215: `MAC.CHK_LCID` reports validity, class and fixed size; MACU is neither read nor changed. -/
def Obligations.CheckLcidReportsTheTables : Prop :=
  ∀ (lcid : BitVec 6) (dir : Dir) (s : State),
    decode (packWord 0x1C (0#2 ++ lcid) (match dir with | .dl => 0 | .ul => 1) 0) = .ok (.macChkLcid lcid dir)
    ∧ exec (.macChkLcid lcid dir) s = .next (completedAs s { s with r := { s.r with
      r0 := if (lcidTable dir lcid.toNat).1 = 0 then 0 else 1
      r1 := word (lcidTable dir lcid.toNat).1
      r2 := word (lcidTable dir lcid.toNat).2 } })

/-- R220, R250, R268: the session commands are accepted in every mode (`MAC.INIT_TX` if the size fits) and set the five MACU CSRs; the
table becomes empty and `TB` is not written. -/
def Obligations.SessionCommandsSetMacu : Prop :=
  ∀ (dir : Dir) (tbLen : Word) (s : State),
    exec (.macInitRx dir) s = .next (completedAs s { s with mac := ⟨.rx, dir, 0, 0, 0, []⟩ })
    ∧ (tbLen.toNat ≤ s.params.tbCap →
        exec (.macInitTx dir tbLen) s = .next (completedAs s { s with mac := ⟨.tx, dir, tbLen, tbLen, 0, []⟩ }))
    ∧ (s.params.tbCap < tbLen.toNat → exec (.macInitTx dir tbLen) s = .next (refusedWith s .badOperand))
    ∧ exec .macRelease s = .next (completedAs s { s with mac := ⟨.idle, .dl, 0, 0, 0, []⟩ })

/-- R252 and R251: the checks of `MAC.ADD_SDU` in their order; then the sub-PDU is appended with the fixed size for an uplink CCCH, else
with `F = 1` exactly for 256 bytes or more, its payload copied from `PL`. -/
def Obligations.AddSduAppendsTheSdu : Prop :=
  ∀ (lcid : BitVec 6) (len : BitVec 16) (addr : Word) (s : State) (k slen hlen : Nat) (f : Bool),
    k = (lcidTable s.mac.dir lcid.toNat).1 →
    slen = (if k = 2 then (lcidTable s.mac.dir lcid.toNat).2 else len.toNat) →
    f = (k = 1 && 256 ≤ len.toNat) → hlen = (if k = 2 then 1 else if f then 3 else 2) →
    (s.mac.mode ≠ .tx → exec (.macAddSdu lcid len addr) s = .next (refusedWith s .badState))
    ∧ (s.mac.mode = .tx →
      (¬(k = 1 ∨ k = 2) → exec (.macAddSdu lcid len addr) s = .next (refusedWith s .badOperand))
      ∧ (k = 1 ∨ k = 2 →
        (s.params.plCap < addr.toNat + slen → exec (.macAddSdu lcid len addr) s = .next (refusedWith s .badOperand))
        ∧ (addr.toNat + slen ≤ s.params.plCap →
          (s.mac.sp.length = s.params.spCap → exec (.macAddSdu lcid len addr) s = .next (refusedWith s .tableFull))
          ∧ (s.mac.sp.length ≠ s.params.spCap →
            (s.mac.remain.toNat < hlen + slen → exec (.macAddSdu lcid len addr) s = .next (refusedWith s .noSpace))
            ∧ (hlen + slen ≤ s.mac.remain.toNat → MacInv s →
              ∃ t, exec (.macAddSdu lcid len addr) s = .next t
                ∧ Appended s t lcid f hlen slen (fun i v => MayRead s .pl (addr.toNat + i) v)
                ∧ t.r = { s.r with r0 := word (hlen + slen), r1 := word slen, r2 := t.mac.remain })))))

/-- R256, R258, R260, R262: in the right session and with room, each of the four control elements is appended with its LCID, a one-byte
header and its payload layout, and the three results are written. -/
def Obligations.AddControlElementAppendsItsPayload : Prop :=
  ∀ s : State, MacInv s → s.mac.mode = .tx → s.mac.sp.length ≠ s.params.spCap →
    (s.mac.dir = .ul → 3 ≤ s.mac.remain.toNat →
      (∀ rnti : BitVec 16, ∃ t, exec (.macAddCrntiCe rnti) s = .next t
        ∧ Appended s t 58 false 1 2 (fun i v => [rnti.toNat / 256, rnti.toNat % 256][i]? = some v)
        ∧ t.r = { s.r with r0 := 3, r1 := 2, r2 := t.mac.remain })
      ∧ (∀ phr pcmax : BitVec 6, ∃ t, exec (.macAddSePhrCe phr pcmax) s = .next t
        ∧ Appended s t 57 false 1 2 (fun i v => [phr.toNat, pcmax.toNat][i]? = some v)
        ∧ t.r = { s.r with r0 := 3, r1 := 2, r2 := t.mac.remain }))
    ∧ (s.mac.dir = .ul → 2 ≤ s.mac.remain.toNat → ∀ (lcg : BitVec 3) (bs : BitVec 5),
      ∃ t, exec (.macAddSbsrCe lcg bs) s = .next t
        ∧ Appended s t 61 false 1 1 (fun _ v => v = 32 * lcg.toNat + bs.toNat)
        ∧ t.r = { s.r with r0 := 2, r1 := 1, r2 := t.mac.remain })
    ∧ (s.mac.dir = .dl → 7 ≤ s.mac.remain.toNat → ∀ id : BitVec 48,
      ∃ t, exec (.macAddConresCe id) s = .next t
        ∧ Appended s t 62 false 1 6 (fun i v => v = id.toNat / 2 ^ (8 * (5 - i)) % 256)
        ∧ t.r = { s.r with r0 := 7, r1 := 6, r2 := t.mac.remain })

/-- R251 and R324: the control-element commands refuse in the order session mode, direction, table capacity, space; `size` is `hlen + slen`
of the sub-PDU. -/
def Obligations.AddControlElementRefusals : Prop :=
  ∀ (i : Instr) (s : State) (dir : Dir) (size : Nat),
    ((dir = .ul ∧ size = 3 ∧ ∃ rnti, i = .macAddCrntiCe rnti) ∨ (dir = .ul ∧ size = 3 ∧ ∃ phr pcmax, i = .macAddSePhrCe phr pcmax)
      ∨ (dir = .ul ∧ size = 2 ∧ ∃ lcg bs, i = .macAddSbsrCe lcg bs) ∨ (dir = .dl ∧ size = 7 ∧ ∃ id, i = .macAddConresCe id)) →
    (s.mac.mode ≠ .tx → exec i s = .next (refusedWith s .badState))
    ∧ (s.mac.mode = .tx → s.mac.dir ≠ dir → exec i s = .next (refusedWith s .wrongDir))
    ∧ (s.mac.mode = .tx → s.mac.dir = dir → s.mac.sp.length = s.params.spCap → exec i s = .next (refusedWith s .tableFull))
    ∧ (s.mac.mode = .tx → s.mac.dir = dir → s.mac.sp.length ≠ s.params.spCap → s.mac.remain.toNat < size →
        exec i s = .next (refusedWith s .noSpace))

/-- R266: `MAC.PACK` fills all remaining space with one padding sub-PDU, the header `3F` and zeros, or emits none if nothing remains; it
needs a `TX` session, and a free table entry where it pads. -/
def Obligations.PackFillsTheRemainingSpace : Prop :=
  ∀ s : State,
    (s.mac.mode ≠ .tx → exec .macPack s = .next (refusedWith s .badState))
    ∧ (s.mac.mode = .tx →
      (s.mac.remain = 0 → exec .macPack s = .next (completedAs s { s with r := { s.r with r0 := s.mac.woff, r1 := 0 } }))
      ∧ (s.mac.remain ≠ 0 → s.mac.sp.length = s.params.spCap → exec .macPack s = .next (refusedWith s .tableFull))
      ∧ (s.mac.remain ≠ 0 → s.mac.sp.length ≠ s.params.spCap → MacInv s →
          ∃ t, exec .macPack s = .next t ∧ Appended s t 63 false 1 (s.mac.remain.toNat - 1) (fun _ v => v = 0)
            ∧ t.mac.woff = s.mac.tbLen ∧ t.mac.remain = 0
            ∧ t.r = { s.r with r0 := s.mac.tbLen, r1 := s.mac.remain }))

/-- R222 and R224: `MAC.UNPACK` of a block with definite content succeeds exactly where the block is a sequence of at most `SP_CAP`
sub-PDUs that ends at its last byte, and then the table holds exactly that sequence; every other block is refused. -/
def Obligations.UnpackFindsTheSubPdus : Prop :=
  ∀ (len : Word) (s : State),
    (s.mac.mode ≠ .rx → exec (.macUnpack len) s = .next (refusedWith s .badState))
    ∧ (s.mac.mode = .rx → s.params.tbCap < len.toNat → exec (.macUnpack len) s = .next (refusedWith s .badOperand))
    ∧ (s.mac.mode = .rx → len.toNat ≤ s.params.tbCap → (∀ a, a < len.toNat → (s.peek .tb a).isSome) →
      (∀ ds : List Desc, ds.length ≤ s.params.spCap →
        BlockParses s.mac.dir (fun a => (s.peek .tb a).getD 0) len.toNat 0 ds →
        exec (.macUnpack len) s = .next (completedAs s { s with
          cursor := .idle
          mac := { s.mac with sp := ds, tbLen := len, mode := .rxDone }
          r := { s.r with r0 := word ds.length, r1 := len } }))
      ∧ ((¬∃ ds : List Desc, ds.length ≤ s.params.spCap
            ∧ BlockParses s.mac.dir (fun a => (s.peek .tb a).getD 0) len.toNat 0 ds) →
        ∃ e, e ∈ [Code.malformedPdu, Code.unsupportedLcid, Code.tableFull]
          ∧ exec (.macUnpack len) s = .next (refusedWith s e)))

/-- R222, R224 and R324: the code of `MAC.UNPACK` is that of the first offending sub-PDU, here at offset `off` after sub-PDUs that parse, and
within it of the first check that fails: a reserved LCID, cut-off length bytes, an LCID without a known size, a payload that runs past the
end of the block (by its length field, or by its fixed size), a table that is full. The bytes are those the command reads: definite ones as
they stand, unspecified ones as drawn (R73). -/
def Obligations.UnpackNamesTheFirstOffence : Prop :=
  ∀ (len : Word) (s : State) (ds : List Desc) (off b k size nL payload : Nat),
    s.mac.mode = .rx → len.toNat ≤ s.params.tbCap → ds.length ≤ s.params.spCap →
    ParsesUpTo s.mac.dir (s.read .tb) len.toNat 0 ds off → off < len.toNat →
    b = s.read .tb off → k = (lcidTable s.mac.dir (b % 64)).1 → size = (lcidTable s.mac.dir (b % 64)).2 →
    nL = (if b / 64 % 2 = 1 then 2 else 1) →
    payload = (if b / 64 % 2 = 1 then 256 * s.read .tb (off + 1) + s.read .tb (off + 2) else s.read .tb (off + 1)) →
    (k = 0 → exec (.macUnpack len) s = .next (refusedWith s .malformedPdu))
    ∧ (k = 1 ∨ k = 4 → len.toNat < off + 1 + nL → exec (.macUnpack len) s = .next (refusedWith s .malformedPdu))
    ∧ (k = 6 → exec (.macUnpack len) s = .next (refusedWith s .unsupportedLcid))
    ∧ (k = 1 ∨ k = 4 → off + 1 + nL ≤ len.toNat → len.toNat < off + 1 + nL + payload →
        exec (.macUnpack len) s = .next (refusedWith s .malformedPdu))
    ∧ (k = 2 ∨ k = 3 → len.toNat < off + 1 + size → exec (.macUnpack len) s = .next (refusedWith s .malformedPdu))
    ∧ ((∃ d, Opens s.mac.dir (s.read .tb) len.toNat off d) → ds.length = s.params.spCap →
        exec (.macUnpack len) s = .next (refusedWith s .tableFull))

/-- `MAC.UNPACK` is the run of the sub-headers of its block (R222, the loop; log entry 5, the parse in progress is the model's): from the
state with the parse opened at byte 0, some number of steps ends in the state the one command gives. -/
def Obligations.UnpackIsTheRunOfItsSubHeaders : Prop :=
  ∀ (len : Word) (s : State), s.mac.mode = .rx → len.toNat ≤ s.params.tbCap → 0 < len.toNat → s.cursor = .idle →
    ∃ k, Host.Core.run Sys2Proof.core k { s with cursor := ⟨0, len.toNat, []⟩ } = exec (.macUnpack len) s

/-- R111 and R222 (the parse in progress is the model's, log entry 5): a sub-header that fits its LCID's class, with its payload inside the
block and a free table entry, adds its descriptor and moves the parse past its payload; at the end of the block the parse commits. -/
def Obligations.SubHeadersAdvanceTheParse : Prop :=
  ∀ (i : Instr) (s : State) (f : Bool) (lcid : BitVec 6) (hlen slen k size stop : Nat) (ds : List Desc),
    s.cursor.off < s.cursor.len →
    k = (lcidTable s.mac.dir lcid.toNat).1 → size = (lcidTable s.mac.dir lcid.toNat).2 →
    ((∃ r, i = .subhdr1B r f lcid ∧ hlen = 1 ∧ ((k = 5 ∧ slen = s.cursor.len - s.cursor.off - 1) ∨ ((k = 2 ∨ k = 3) ∧ slen = size)))
      ∨ (∃ r n, i = .subhdr2B r lcid n ∧ f = false ∧ hlen = 2 ∧ (k = 1 ∨ k = 4) ∧ slen = n.toNat)
      ∨ (∃ r n, i = .subhdr3B r lcid n ∧ f = true ∧ hlen = 3 ∧ (k = 1 ∨ k = 4) ∧ slen = n.toNat)) →
    stop = s.cursor.off + hlen + slen → stop ≤ s.cursor.len → s.cursor.list.length ≠ s.params.spCap →
    ds = s.cursor.list ++ [⟨lcid, f, BitVec.ofNat 2 hlen, word slen, word (s.cursor.off + hlen)⟩] →
    (stop < s.cursor.len → exec i s = .next { s with cursor := ⟨stop, s.cursor.len, ds⟩ })
    ∧ (stop = s.cursor.len → exec i s = .next (completedAs s { s with
        cursor := .idle
        mac := { s.mac with sp := ds, tbLen := word s.cursor.len, mode := .rxDone }
        r := { s.r with r0 := word ds.length, r1 := word s.cursor.len } }))

/-- R222 (the parse in progress is the model's, log entry 5): a sub-header that ends the parse in an error: a reserved LCID, a
length-carrying LCID without length bytes, an LCID without a known size, a payload that runs past the end of the block, a full table; the
list is discarded and nothing else changes. With no parse in progress nothing happens. The model's choice (log entry 9): a one-byte pattern
with a length-carrying LCID is a header whose length bytes are cut off, and a two- or three-byte pattern with a reserved LCID or one without
a known size is refused as the one-byte header it begins with. -/
def Obligations.SubHeadersEndTheParseInError : Prop :=
  (∀ (i : Instr) (s : State) (lcid : BitVec 6) (k : Nat), k = (lcidTable s.mac.dir lcid.toNat).1 →
    ((∃ r f, i = .subhdr1B r f lcid) ∨ (∃ r n, i = .subhdr2B r lcid n) ∨ (∃ r n, i = .subhdr3B r lcid n)) →
    (s.cursor.len ≤ s.cursor.off → exec i s = .next s)
    ∧ (s.cursor.off < s.cursor.len → k = 0 → exec i s = .next (refusedWith { s with cursor := .idle } .malformedPdu))
    ∧ (s.cursor.off < s.cursor.len → k = 6 → exec i s = .next (refusedWith { s with cursor := .idle } .unsupportedLcid))
    ∧ (s.cursor.off < s.cursor.len → k = 1 ∨ k = 4 → (∃ r f, i = .subhdr1B r f lcid) →
        exec i s = .next (refusedWith { s with cursor := .idle } .malformedPdu)))
  ∧ ∀ (i : Instr) (s : State) (lcid : BitVec 6) (k stop : Nat), k = (lcidTable s.mac.dir lcid.toNat).1 →
    s.cursor.off < s.cursor.len →
    ((∃ r f, i = .subhdr1B r f lcid ∧ ((k = 5 ∧ stop = s.cursor.len)
        ∨ ((k = 2 ∨ k = 3) ∧ stop = s.cursor.off + 1 + (lcidTable s.mac.dir lcid.toNat).2)))
      ∨ (∃ r n, i = .subhdr2B r lcid n ∧ (k = 1 ∨ k = 4) ∧ stop = s.cursor.off + 2 + n.toNat)
      ∨ (∃ r n, i = .subhdr3B r lcid n ∧ (k = 1 ∨ k = 4) ∧ stop = s.cursor.off + 3 + n.toNat)) →
    (s.cursor.len < stop → exec i s = .next (refusedWith { s with cursor := .idle } .malformedPdu))
    ∧ (stop ≤ s.cursor.len → s.cursor.list.length = s.params.spCap →
        exec i s = .next (refusedWith { s with cursor := .idle } .tableFull))

/-- R228: `MAC.GET_SUBPDU` checks mode and index, and returns the fields of the entry and its size on the wire. -/
def Obligations.GetSubpduReturnsTheEntry : Prop :=
  ∀ (index : Word) (s : State),
    decode (packWord 0x19 0 0 index) = .ok (.macGetSubpdu index)
    ∧ (s.mac.mode = .idle ∨ s.mac.mode = .rx → exec (.macGetSubpdu index) s = .next (refusedWith s .badState))
    ∧ (s.mac.mode = .tx ∨ s.mac.mode = .rxDone →
      (s.mac.sp.length ≤ index.toNat → exec (.macGetSubpdu index) s = .next (refusedWith s .badIndex))
      ∧ ∀ e, s.mac.sp[index.toNat]? = some e →
        ∃ r0 : Word, exec (.macGetSubpdu index) s = .next (completedAs s { s with
            r := ⟨r0, e.slen, e.soff, word (e.hlen.toNat + e.slen.toNat)⟩ })
          ∧ r0.extractLsb' 0 6 = e.lcid ∧ r0.extractLsb' 6 2 = 0 ∧ r0.getLsbD 8 = e.f ∧ r0.extractLsb' 9 7 = 0
          ∧ r0.extractLsb' 16 2 = e.hlen ∧ r0.extractLsb' 18 14 = 0)

/-- R230: the checks of `MAC.GET_LBSR` in their order; then the Long BSR decode of a payload with definite content: the bitmap, the number of
values read and the mask of the defaulted groups in `r[0]`; byte `i` of `r[1]`, `r[2]` is 0 for a group not flagged, its value if it is present,
else 63. -/
def Obligations.GetLbsrDecodesTheGroups : Prop :=
  (∀ (index : Word) (s : State),
    (s.mac.mode = .idle ∨ s.mac.mode = .rx → exec (.macGetLbsr index) s = .next (refusedWith s .badState))
    ∧ (s.mac.mode = .tx ∨ s.mac.mode = .rxDone →
      (s.mac.sp.length ≤ index.toNat → exec (.macGetLbsr index) s = .next (refusedWith s .badIndex))
      ∧ ∀ e, s.mac.sp[index.toNat]? = some e →
        (¬(s.mac.dir = .ul ∧ (e.lcid = 60 ∨ e.lcid = 62)) → exec (.macGetLbsr index) s = .next (refusedWith s .badOperand))
        ∧ (s.mac.dir = .ul → e.lcid = 60 ∨ e.lcid = 62 →
          (e.slen = 0 → exec (.macGetLbsr index) s = .next (refusedWith s .malformedPdu))
          ∧ (∀ bm, e.slen ≠ 0 → s.peek .tb e.soff.toNat = some bm → e.lcid = 62 → e.slen.toNat ≤ groupsBelow bm 8 →
              exec (.macGetLbsr index) s = .next (refusedWith s .malformedPdu)))))
  ∧ ∀ (index : Word) (s : State) (e : Desc) (bm : Nat) (val : Nat → Nat),
    s.mac.mode = .tx ∨ s.mac.mode = .rxDone → s.mac.sp[index.toNat]? = some e → s.mac.dir = .ul → e.lcid = 60 ∨ e.lcid = 62 →
    e.slen ≠ 0 → s.peek .tb e.soff.toNat = some bm →
    (∀ j, j < 8 → 1 + j < e.slen.toNat → s.peek .tb (e.soff.toNat + 1 + j) = some (val j)) →
    (e.lcid = 62 → groupsBelow bm 8 < e.slen.toNat) →
    ∃ (t : State) (dm : Nat), exec (.macGetLbsr index) s = .next t
      ∧ t = completedAs s { s with r := { t.r with r3 := s.r.r3 } }
      ∧ dm < 256 ∧ t.r.r0.toNat = bm + 256 * min (groupsBelow bm 8) (e.slen.toNat - 1) + 65536 * dm
      ∧ (∀ i, i < 8 → dm.testBit i = (bm.testBit i && e.slen.toNat - 1 ≤ groupsBelow bm i))
      ∧ ∀ i, i < 8 → (if i < 4 then t.r.r1 else t.r.r2).toNat / 256 ^ (i % 4) % 256
          = if bm.testBit i then (if groupsBelow bm i < e.slen.toNat - 1 then val (groupsBelow bm i) else 63) else 0

/-- R34, R35 and R20: every step keeps what the spec says of the MACU registers; that no parse is in progress is R20 said of the model's own
field `cursor` (log entry 5). -/
def Obligations.StepKeepsMacuRegisters : Prop := ∀ s t : State, MacInv s → step s = .next t → MacInv t

/-- R270: every step keeps the invariants of the pack path: in `TX` the offsets and `woff` are sums over the table and the bytes written parse
to exactly the table. -/
def Obligations.StepKeepsPackPath : Prop := ∀ s t : State, MacInv s → PackInv s → step s = .next t → PackInv t

/-- The invariants hold at reset, and so do the canonical form of memory (log entry 4) and the bounds of the capacities (R7, log entry 2). -/
def Obligations.ResetMeetsTheInvariants : Prop :=
  MacInv State.reset ∧ PackInv State.reset ∧ RbInv State.reset ∧ UciInv State.reset ∧ State.reset.mem.wf = true
    ∧ State.reset.params.ok

/-! ## RBAU -/

/-- The table of 41_rb_allocator.md R160. -/
def nominalRbgSize (n : Nat) (cfg : RbgConfig) : Nat :=
  if cfg = .config1 then (if n ≤ 36 then 2 else if n ≤ 72 then 4 else if n ≤ 144 then 8 else 16)
  else (if n ≤ 36 then 4 else if n ≤ 72 then 8 else 16)

/-- R163 with R160 and R161: `RB.INIT` sets the six geometry CSRs from the BWP, clears both bitmaps, and leaves `GR`; a size or position
outside the carrier is refused. -/
def Obligations.RbInitSetsTheGeometry : Prop :=
  ∀ (cfg : RbgConfig) (start : BitVec 16) (n : Word) (s : State),
    (¬(1 ≤ n.toNat ∧ n.toNat ≤ 275 ∧ start.toNat + n.toNat ≤ 275) → exec (.rbInit cfg start n) s = .next (refusedWith s .badOperand))
    ∧ (1 ≤ n.toNat → n.toNat ≤ 275 → start.toNat + n.toNat ≤ 275 → ∀ p, p = nominalRbgSize n.toNat cfg →
        ∃ t, exec (.rbInit cfg start n) s = .next t ∧ t = completedAs s { s with rb := { t.rb with gr := s.rb.gr } }
          ∧ t.csrRead 0x20 = n ∧ (t.csrRead 0x21).toNat = start.toNat ∧ t.csrRead 0x22 = (if cfg = .config1 then 0 else 1)
          ∧ (t.csrRead 0x23).toNat = p ∧ (t.csrRead 0x24).toNat = p - start.toNat % p
          ∧ (t.csrRead 0x25).toNat = (n.toNat + start.toNat % p + p - 1) / p ∧ (t.csrRead 0x25).toNat ≤ 19
          ∧ t.rb.prbs = 0 ∧ t.rb.rbgs = 0)

/-- R165: `RB.CLEAR` clears both bitmaps and leaves geometry and `GR`; before `RB.INIT` it is refused. -/
def Obligations.RbClearClearsBothBitmaps : Prop :=
  ∀ s : State,
    decode 0x2100000000000000#64 = .ok .rbClear
    ∧ (s.rb.nprb = 0 → exec .rbClear s = .next (refusedWith s .badState))
    ∧ (s.rb.nprb ≠ 0 → exec .rbClear s = .next (completedAs s { s with rb := { s.rb with prbs := 0, rbgs := 0 } }))

/-- R167: `RB.ADD_INTERVAL` sets exactly the PRBs of the interval and the RBG of each of them, `(p + P - first) div P`; bits already set
stay set. -/
def Obligations.AddIntervalSetsPrbsAndTheirRbgs : Prop :=
  ∀ (start : BitVec 16) (stop : Word) (s : State),
    decode (packWord 0x22 0 start stop) = .ok (.rbAddInterval start stop)
    ∧ (s.rb.nprb = 0 → exec (.rbAddInterval start stop) s = .next (refusedWith s .badState))
    ∧ (s.rb.nprb ≠ 0 → ¬(start.toNat ≤ stop.toNat ∧ stop.toNat ≤ s.rb.nprb.toNat) →
        exec (.rbAddInterval start stop) s = .next (refusedWith s .badOperand))
    ∧ (s.rb.nprb ≠ 0 → start.toNat ≤ stop.toNat → stop.toNat ≤ s.rb.nprb.toNat →
        ∃ t, exec (.rbAddInterval start stop) s = .next t
          ∧ t = completedAs s { s with rb := { s.rb with prbs := t.rb.prbs, rbgs := t.rb.rbgs } }
          ∧ (∀ p, p < 275 → (t.rb.prbs.getLsbD p = true ↔ s.rb.prbs.getLsbD p = true ∨ (start.toNat ≤ p ∧ p < stop.toNat)))
          ∧ (∀ g, g < 19 → (t.rb.rbgs.getLsbD g = true ↔ s.rb.rbgs.getLsbD g = true
              ∨ ∃ p, start.toNat ≤ p ∧ p < stop.toNat ∧ (p + s.rb.p.toNat - s.rb.first.toNat) / s.rb.p.toNat = g)))

/-- The bits that adding an RBG mask leaves (41_rb_allocator.md R169, R161): the RBGs of the mask and every PRB from `rbg_lo(g)` to `rbg_hi(g)`
of each of them. -/
def MaskAdded (s t : State) (mask : BitVec 19) : Prop :=
  t = completedAs s { s with rb := { s.rb with prbs := t.rb.prbs, rbgs := t.rb.rbgs } }
    ∧ (∀ g, g < 19 → (t.rb.rbgs.getLsbD g = true ↔ s.rb.rbgs.getLsbD g = true
        ∨ (g < s.rb.nrbg.toNat ∧ mask.getLsbD g = true)))
    ∧ (∀ p, p < 275 → (t.rb.prbs.getLsbD p = true ↔ s.rb.prbs.getLsbD p = true
        ∨ ∃ g, g < s.rb.nrbg.toNat ∧ mask.getLsbD g = true
          ∧ (if g = 0 then 0 else min (s.rb.first.toNat + (g - 1) * s.rb.p.toNat) s.rb.nprb.toNat) ≤ p
          ∧ p < min (s.rb.first.toNat + g * s.rb.p.toNat) s.rb.nprb.toNat))

/-- R169: `RB.ADD_RBGS` sets the RBGs of the mask and every PRB of them; a mask with a bit at or above `nrbg` is refused. -/
def Obligations.AddRbgsSetsWholeRbgs : Prop :=
  ∀ (mask : BitVec 19) (s : State),
    decode (packWord 0x23 0 0 (0#13 ++ mask)) = .ok (.rbAddRbgs mask)
    ∧ (s.rb.nprb = 0 → exec (.rbAddRbgs mask) s = .next (refusedWith s .badState))
    ∧ (s.rb.nprb ≠ 0 → 2 ^ s.rb.nrbg.toNat ≤ mask.toNat → exec (.rbAddRbgs mask) s = .next (refusedWith s .badOperand))
    ∧ (s.rb.nprb ≠ 0 → mask.toNat < 2 ^ s.rb.nrbg.toNat → ∃ t, exec (.rbAddRbgs mask) s = .next t ∧ MaskAdded s t mask)

/-- R171: `RB.ADD_GRANT` adds the grant in `GR` by its active variant, which must fit the BWP. -/
def Obligations.AddGrantAddsTheActiveVariant : Prop :=
  ∀ s : State,
    (s.rb.nprb = 0 → exec .rbAddGrant s = .next (refusedWith s .badState))
    ∧ (s.rb.nprb ≠ 0 → ∀ mask, s.rb.gr = .type0 mask →
      (2 ^ s.rb.nrbg.toNat ≤ mask.toNat → exec .rbAddGrant s = .next (refusedWith s .badOperand))
      ∧ (mask.toNat < 2 ^ s.rb.nrbg.toNat → ∃ t, exec .rbAddGrant s = .next t ∧ MaskAdded s t mask))
    ∧ (s.rb.nprb ≠ 0 → ∀ start stop, s.rb.gr = .type1 start stop →
      (s.rb.nprb.toNat < stop.toNat → exec .rbAddGrant s = .next (refusedWith s .badOperand))
      ∧ (stop.toNat ≤ s.rb.nprb.toNat → ∃ t, exec .rbAddGrant s = .next t
          ∧ t = completedAs s { s with rb := { s.rb with prbs := t.rb.prbs, rbgs := t.rb.rbgs } }
          ∧ (∀ p, p < 275 → (t.rb.prbs.getLsbD p = true ↔ s.rb.prbs.getLsbD p = true ∨ (start.toNat ≤ p ∧ p < stop.toNat)))
          ∧ (∀ g, g < 19 → (t.rb.rbgs.getLsbD g = true ↔ s.rb.rbgs.getLsbD g = true
              ∨ ∃ p, start.toNat ≤ p ∧ p < stop.toNat ∧ (p + s.rb.p.toNat - s.rb.first.toNat) / s.rb.p.toNat = g))))

/-- R173: `RB.COLLIDES` compares a type-0 grant with `RBGS` and a type-1 grant with `PRBS`, writes 1 or 0 to `r[0]`, and changes no bitmap. -/
def Obligations.CollidesComparesAtNativeGranularity : Prop :=
  ∀ s : State,
    decode 0x2500000000000000#64 = .ok .rbCollides
    ∧ (s.rb.nprb = 0 → exec .rbCollides s = .next (refusedWith s .badState))
    ∧ (s.rb.nprb ≠ 0 → ∀ mask, s.rb.gr = .type0 mask →
      (2 ^ s.rb.nrbg.toNat ≤ mask.toNat → exec .rbCollides s = .next (refusedWith s .badOperand))
      ∧ (mask.toNat < 2 ^ s.rb.nrbg.toNat → ∃ v : Word, exec .rbCollides s = .next (completedAs s { s with r := { s.r with r0 := v } })
          ∧ (v = 0 ∨ v = 1) ∧ (v = 1 ↔ ∃ g, g < s.rb.nrbg.toNat ∧ s.rb.rbgs.getLsbD g = true ∧ mask.getLsbD g = true)))
    ∧ (s.rb.nprb ≠ 0 → ∀ start stop, s.rb.gr = .type1 start stop →
      (s.rb.nprb.toNat < stop.toNat → exec .rbCollides s = .next (refusedWith s .badOperand))
      ∧ (stop.toNat ≤ s.rb.nprb.toNat → ∃ v : Word, exec .rbCollides s = .next (completedAs s { s with r := { s.r with r0 := v } })
          ∧ (v = 0 ∨ v = 1) ∧ (v = 1 ↔ ∃ p, start.toNat ≤ p ∧ p < stop.toNat ∧ s.rb.prbs.getLsbD p = true)))

/-- R175: `RB.FIND_NEXT` returns the first maximal run of clear bits that begins at or after `start_idx` and before `min(n, last_idx)`, with
`r[2] = 1`; where there is none, zeros. -/
def Obligations.FindNextReturnsTheFirstGap : Prop :=
  ∀ (startIdx : BitVec 16) (lastIdx : Word) (s : State),
    decode (packWord 0x26 0 startIdx lastIdx) = .ok (.rbFindNext startIdx lastIdx)
    ∧ (s.rb.nprb = 0 → exec (.rbFindNext startIdx lastIdx) s = .next (refusedWith s .badState))
    ∧ (s.rb.nprb ≠ 0 → ∀ hi, hi = min s.rb.nprb.toNat lastIdx.toNat →
      (∀ a b, IsGap s.rb.prbs startIdx.toNat hi a b → (∀ a' b', IsGap s.rb.prbs startIdx.toNat hi a' b' → a ≤ a') →
        exec (.rbFindNext startIdx lastIdx) s
          = .next (completedAs s { s with r := { s.r with r0 := word a, r1 := word b, r2 := 1 } }))
      ∧ ((¬∃ a b, IsGap s.rb.prbs startIdx.toNat hi a b) →
        exec (.rbFindNext startIdx lastIdx) s = .next (completedAs s { s with r := { s.r with r0 := 0, r1 := 0, r2 := 0 } })))

/-- R177: `RB.FIND_LEN` returns the first `nof_prbs` PRBs of the first gap that is long enough; else the whole of the longest gap, the earliest
among equals, with `r[2] = 0`; else zeros. -/
def Obligations.FindLenIsFirstFit : Prop :=
  ∀ (startIdx : BitVec 16) (len : Word) (s : State),
    decode (packWord 0x27 0 startIdx len) = .ok (.rbFindLen startIdx len)
    ∧ (s.rb.nprb = 0 → exec (.rbFindLen startIdx len) s = .next (refusedWith s .badState))
    ∧ (s.rb.nprb ≠ 0 → ∃ a b : Nat, ∃ found : Bool,
      exec (.rbFindLen startIdx len) s
        = .next (completedAs s { s with r := { s.r with r0 := word a, r1 := word b, r2 := word found.toNat } })
      ∧ ((found = true ∧ b = a + len.toNat ∧ (∃ b', IsGap s.rb.prbs startIdx.toNat s.rb.nprb.toNat a b' ∧ len.toNat ≤ b' - a)
            ∧ ∀ a' b', IsGap s.rb.prbs startIdx.toNat s.rb.nprb.toNat a' b' → len.toNat ≤ b' - a' → a ≤ a')
        ∨ (found = false ∧ (∀ a' b', IsGap s.rb.prbs startIdx.toNat s.rb.nprb.toNat a' b' → b' - a' < len.toNat)
            ∧ IsGap s.rb.prbs startIdx.toNat s.rb.nprb.toNat a b
            ∧ ∀ a' b', IsGap s.rb.prbs startIdx.toNat s.rb.nprb.toNat a' b' →
                b' - a' < b - a ∨ (b' - a' = b - a ∧ a ≤ a'))
        ∨ (found = false ∧ a = 0 ∧ b = 0 ∧ ¬∃ a' b', IsGap s.rb.prbs startIdx.toNat s.rb.nprb.toNat a' b')))

/-- R179 and R161: `RB.PRB2RBG` returns the RBG that contains the PRB: `(prb + P - first) div P`, and under the geometry of the BWP the one RBG
`g < nrbg` with `rbg_lo(g) <= prb < rbg_hi(g)` (R161, R38). -/
def Obligations.PrbToRbgNamesTheContainingRbg : Prop :=
  ∀ (prb : Word) (s : State),
    decode (packWord 0x2F 0 0 prb) = .ok (.rbPrb2Rbg prb)
    ∧ (s.rb.nprb = 0 → exec (.rbPrb2Rbg prb) s = .next (refusedWith s .badState))
    ∧ (s.rb.nprb ≠ 0 → s.rb.nprb.toNat ≤ prb.toNat → exec (.rbPrb2Rbg prb) s = .next (refusedWith s .badOperand))
    ∧ (s.rb.nprb ≠ 0 → prb.toNat < s.rb.nprb.toNat → ∀ g, g = (prb.toNat + s.rb.p.toNat - s.rb.first.toNat) / s.rb.p.toNat →
        exec (.rbPrb2Rbg prb) s = .next (completedAs s { s with r := { s.r with r0 := word g } })
        ∧ (RbInv s → g < s.rb.nrbg.toNat
          ∧ (if g = 0 then 0 else min (s.rb.first.toNat + (g - 1) * s.rb.p.toNat) s.rb.nprb.toNat) ≤ prb.toNat
          ∧ prb.toNat < min (s.rb.first.toNat + g * s.rb.p.toNat) s.rb.nprb.toNat))

/-- R162, R38, R52: every step keeps the geometry derived from the BWP, the bits beyond it 0, and the RBG of every set PRB set. -/
def Obligations.StepKeepsBitmapsConsistent : Prop := ∀ s t : State, RbInv s → step s = .next t → RbInv t

/-- R190, R191, R192: the setters replace the grant, whatever it was, an interval only if it is one; `RB.GRANT_TYPE` returns the tag. -/
def Obligations.GrantSettersReplaceTheGrant : Prop :=
  ∀ s : State,
    (∀ (start : BitVec 16) (stop : Word),
      decode (packWord 0x28 0 start stop) = .ok (.rbGrantSetInterval start stop)
      ∧ (¬(start.toNat ≤ stop.toNat ∧ stop.toNat ≤ 275) → exec (.rbGrantSetInterval start stop) s = .next (refusedWith s .badOperand))
      ∧ (start.toNat ≤ stop.toNat → stop.toNat ≤ 275 → ∃ a b : BitVec 9, a.toNat = start.toNat ∧ b.toNat = stop.toNat
          ∧ exec (.rbGrantSetInterval start stop) s = .next (completedAs s { s with rb := { s.rb with gr := .type1 a b } })))
    ∧ (∀ mask : BitVec 19, decode (packWord 0x29 0 0 (0#13 ++ mask)) = .ok (.rbGrantSetRbgs mask)
      ∧ exec (.rbGrantSetRbgs mask) s = .next (completedAs s { s with rb := { s.rb with gr := .type0 mask } }))
    ∧ decode 0x2A00000000000000#64 = .ok .rbGrantType
    ∧ exec .rbGrantType s = .next (completedAs s { s with r := { s.r with
        r0 := match s.rb.gr with | .type0 _ => 0 | .type1 _ _ => 1 } })

/-- R193, R194: each accessor returns the payload of its own variant; on the other variant it is fatal with `F_VARIANT`. -/
def Obligations.GrantAccessorsReadTheirVariant : Prop :=
  ∀ s : State,
    decode 0x2B00000000000000#64 = .ok .rbGrantGetPrbs
    ∧ decode 0x2C00000000000000#64 = .ok .rbGrantGetRbgs
    ∧ (∀ start stop, s.rb.gr = .type1 start stop →
      exec .rbGrantGetPrbs s = .next (completedAs s { s with r := { s.r with r0 := word start.toNat, r1 := word stop.toNat } })
      ∧ (s.fatal = none → exec .rbGrantGetRbgs s
          = .next { s with status := .fVariant, fatal := some .variant, cseq := s.cseq + 1 }))
    ∧ (∀ mask, s.rb.gr = .type0 mask →
      exec .rbGrantGetRbgs s = .next (completedAs s { s with r := { s.r with r0 := word mask.toNat } })
      ∧ (s.fatal = none → exec .rbGrantGetPrbs s
          = .next { s with status := .fVariant, fatal := some .variant, cseq := s.cseq + 1 }))

/-- The formula of 42_grant_codec.md R197 for the code of an interval. -/
def rivFormula (n s l : Nat) : Nat := if l - 1 ≤ n / 2 then n * (l - 1) + s else n * (n - l + 1) + (n - 1 - s)

/-- R198 with R196 and R197: `RB.GRANT_ENCODE` returns the field and its width: bit `nrbg-1-g` is the mask's bit `g`, or the RIV in the least
width that holds every code. -/
def Obligations.GrantEncodeGivesTheField : Prop :=
  ∀ s : State,
    (s.rb.nprb = 0 → exec .rbGrantEncode s = .next (refusedWith s .badState))
    ∧ (s.rb.nprb ≠ 0 → ∀ mask, s.rb.gr = .type0 mask →
      (2 ^ s.rb.nrbg.toNat ≤ mask.toNat → exec .rbGrantEncode s = .next (refusedWith s .badOperand))
      ∧ (mask.toNat < 2 ^ s.rb.nrbg.toNat → ∃ v : Word,
          exec .rbGrantEncode s = .next (completedAs s { s with r := { s.r with r0 := v, r1 := word s.rb.nrbg.toNat } })
          ∧ (∀ g, g < s.rb.nrbg.toNat → v.getLsbD (s.rb.nrbg.toNat - 1 - g) = mask.getLsbD g)
          ∧ v.toNat < 2 ^ s.rb.nrbg.toNat))
    ∧ (s.rb.nprb ≠ 0 → ∀ start stop, s.rb.gr = .type1 start stop →
      (stop.toNat - start.toNat < 1 ∨ s.rb.nprb.toNat < stop.toNat → exec .rbGrantEncode s = .next (refusedWith s .badOperand))
      ∧ (1 ≤ stop.toNat - start.toNat → stop.toNat ≤ s.rb.nprb.toNat → ∃ width : Nat,
          exec .rbGrantEncode s = .next (completedAs s { s with r := { s.r with
            r0 := word (rivFormula s.rb.nprb.toNat start.toNat (stop.toNat - start.toNat)), r1 := word width } })
          ∧ s.rb.nprb.toNat * (s.rb.nprb.toNat + 1) / 2 ≤ 2 ^ width
          ∧ ∀ k, k < width → 2 ^ k < s.rb.nprb.toNat * (s.rb.nprb.toNat + 1) / 2))

/-- R200 with R196 and R197: `RB.GRANT_DECODE` stores the grant whose field code is the operand; a value that is no code is refused. -/
def Obligations.GrantDecodeStoresTheGrantOfTheField : Prop :=
  ∀ (field : Word) (s : State),
    (s.rb.nprb = 0 → ∀ type, exec (.rbGrantDecode type field) s = .next (refusedWith s .badState))
    ∧ (s.rb.nprb ≠ 0 →
      (2 ^ s.rb.nrbg.toNat ≤ field.toNat → exec (.rbGrantDecode .type0 field) s = .next (refusedWith s .badOperand))
      ∧ (s.rb.nrbg.toNat ≤ 19 → field.toNat < 2 ^ s.rb.nrbg.toNat → ∃ mask : BitVec 19,
          exec (.rbGrantDecode .type0 field) s = .next (completedAs s { s with rb := { s.rb with gr := .type0 mask } })
          ∧ (∀ g, g < s.rb.nrbg.toNat → mask.getLsbD g = field.getLsbD (s.rb.nrbg.toNat - 1 - g))
          ∧ mask.toNat < 2 ^ s.rb.nrbg.toNat)
      ∧ (s.rb.nprb.toNat * (s.rb.nprb.toNat + 1) / 2 ≤ field.toNat →
          exec (.rbGrantDecode .type1 field) s = .next (refusedWith s .badOperand))
      ∧ (field.toNat < s.rb.nprb.toNat * (s.rb.nprb.toNat + 1) / 2 → ∃ a b : BitVec 9,
          exec (.rbGrantDecode .type1 field) s = .next (completedAs s { s with rb := { s.rb with gr := .type1 a b } })
          ∧ a.toNat < b.toNat ∧ b.toNat ≤ s.rb.nprb.toNat
          ∧ rivFormula s.rb.nprb.toNat a.toNat (b.toNat - a.toNat) = field.toNat))

/-- R197: every interval of a BWP has a code below `n(n+1)/2`, every value below it is the code of exactly one interval, and the inverse the rule
gives finds it. -/
def Obligations.RivNumbersTheIntervals : Prop :=
  ∀ n : Nat, 1 ≤ n →
    (∀ s l, 1 ≤ l → s + l ≤ n → riv n s l < n * (n + 1) / 2 ∧ rivInverse n (riv n s l) = (s, l))
    ∧ (∀ v, v < n * (n + 1) / 2 → 1 ≤ (rivInverse n v).2 ∧ (rivInverse n v).1 + (rivInverse n v).2 ≤ n
        ∧ riv n (rivInverse n v).1 (rivInverse n v).2 = v)

/-- R200 ("for every `GR` that `RB.GRANT_ENCODE` accepts, decoding its `r[0]` with the same `type` and geometry restores `GR` exactly"): whatever
grant is held by then. -/
def Obligations.DecodingAnEncodedGrantRestoresIt : Prop :=
  ∀ (s t u : State) (type : AllocType), RbInv s → exec .rbGrantEncode s = .next t → t.status = .ok →
    (type = .type0 ↔ ∃ mask, s.rb.gr = .type0 mask) → { u.rb with gr := s.rb.gr } = s.rb →
    ∃ v, exec (.rbGrantDecode type t.r.r0) u = .next v ∧ v.status = .ok ∧ v.rb = s.rb

/-! ## UCIU -/

/-- R285: `pick` takes every candidate where the category wants at least as many bits as they carry; else every `d`-th one, `rem div K` of them,
`d = (C*K) div rem`; every index it names exists. -/
def Obligations.PickSpreadsByTheStride : Prop :=
  ∀ (k rem d cnt : Nat) (cands : List Nat), 0 < k → 0 < rem → rem % k = 0 → cands ≠ [] →
    d = (if cands.length * k ≤ rem then 1 else cands.length * k / rem) →
    cnt = (if cands.length * k ≤ rem then cands.length else rem / k) →
    (pick k cands rem).length = cnt
      ∧ (∀ i, i < cnt → i * d < cands.length ∧ (pick k cands rem)[i]? = cands[i * d]?)
      ∧ (pick k cands rem).Sublist cands

/-- The legality R283 asks of the UCIU registers and tables, in the registers' own values. -/
def MuxConfigLegal (s : State) : Prop :=
  1 ≤ s.uci.nl.toNat ∧ s.uci.nl.toNat ≤ 4 ∧ s.uci.qm.toNat ∈ [1, 2, 4, 6, 8]
    ∧ (∀ l, l < 14 → s.peek .muci l = some 0 ∨ s.peek .muci l = s.peek .msc l)
    ∧ s.uci.gack.toNat % (s.uci.nl.toNat * s.uci.qm.toNat) = 0
    ∧ (s.uci.oack.toNat ≤ 2 → s.uci.gackrvd.toNat % (s.uci.nl.toNat * s.uci.qm.toNat) = 0)
    ∧ s.uci.gcsi1.toNat % (s.uci.nl.toNat * s.uci.qm.toNat) = 0
    ∧ s.uci.gcsi2.toNat % (s.uci.nl.toNat * s.uci.qm.toNat) = 0
    ∧ s.uci.gulsch.toNat % (s.uci.nl.toNat * s.uci.qm.toNat) = 0
    ∧ (s.uci.oack.toNat ≤ 2 → s.uci.gack.toNat ≤ s.uci.gackrvd.toNat)
    ∧ symbolBase s.uci 14 ≤ s.params.gCap

/-- The number of resource elements of the slot (R282). -/
def reCount (s : State) : Nat := ((List.range 14).map (fun l => (s.peek .msc l).getD 0)).sum

/-- R283, the refusals: an illegal configuration is `E_BAD_OPERAND`; a wrong number of resource elements, targets that do not add up to
`G_tot`, and targets that the lists of the loop do not meet, are `E_RE_MISMATCH`, among them more HARQ-ACK bits than the UCI capacity after
`l1` or more CSI bits than the UCI capacity after `l1c`; nothing is written. -/
def Obligations.GenMuxRefusals : Prop :=
  ∀ s : State,
    (¬MuxConfigLegal s → exec .uciGenMux s = .next (refusedWith s .badOperand))
    ∧ (MuxConfigLegal s → reCount s ≠ s.uci.nofre.toNat → exec .uciGenMux s = .next (refusedWith s .reMismatch))
    ∧ (MuxConfigLegal s → s.uci.gack.toNat + s.uci.gcsi1.toNat + s.uci.gcsi2.toNat + s.uci.gulsch.toNat ≠ symbolBase s.uci 14 →
        exec .uciGenMux s = .next (refusedWith s .reMismatch))
    ∧ (MuxConfigLegal s → ∀ q, GeneratesPositions s q → ¬MeetsTargets s q → exec .uciGenMux s = .next (refusedWith s .reMismatch))
    ∧ (MuxConfigLegal s → uciCapacity s s.uci.l1.toNat < s.uci.gack.toNat
          ∨ uciCapacity s s.uci.l1csi.toNat < s.uci.gcsi1.toNat + s.uci.gcsi2.toNat →
        exec .uciGenMux s = .next (refusedWith s .reMismatch))

/-- R283, the loop and the commit. In every state the loop generates lists: symbol by symbol what `AssignsSymbol` (Sys2Proof/Safety.lean)
writes out from the rule: the starting symbols, the reserved set for at most two HARQ-ACK bits, CSI part 1 outside it, the priority order. Where
the configuration is legal, the resource elements add up and the lists generated meet the four targets, the position memories hold them,
`UCI_VALID` is 1, `UCI_GTOT` is `G_tot`, `UCI_GSTATE` is 0, and the results are the four targets. On configurations without UCI (all UCI targets
and the reservation 0, `Gul = G_tot`) it completes and every coded-bit index is an UL-SCH position, in order. -/
def Obligations.GenMuxCommitsItsLists : Prop :=
  (∀ s : State, GeneratesPositions s s.uci.muxLoop.lists)
  ∧ (∀ (s : State) (p : MuxLists), MuxConfigLegal s → reCount s = s.uci.nofre.toNat → GeneratesPositions s p → MeetsTargets s p →
    ∃ t, exec .uciGenMux s = .next t
      ∧ t = completedAs s { s with
          r := ⟨s.uci.gack, s.uci.gcsi1, s.uci.gcsi2, s.uci.gulsch⟩
          uci := { s.uci with valid := true, gtot := word (symbolBase s.uci 14), gstate := .empty }
          mem := { s.mem with posAck := t.mem.posAck, posCsi1 := t.mem.posCsi1, posCsi2 := t.mem.posCsi2,
                              posUlsch := t.mem.posUlsch } }
      ∧ (∀ m, m < p.pa.length → t.peek .posAck m = p.pa[m]?) ∧ (∀ m, m < p.p1.length → t.peek .posCsi1 m = p.p1[m]?)
      ∧ (∀ m, m < p.p2.length → t.peek .posCsi2 m = p.p2[m]?) ∧ (∀ m, m < p.pu.length → t.peek .posUlsch m = p.pu[m]?))
  ∧ ∀ s : State, MuxConfigLegal s → reCount s = s.uci.nofre.toNat → s.uci.gack = 0 → s.uci.gackrvd = 0 → s.uci.gcsi1 = 0 →
    s.uci.gcsi2 = 0 → s.uci.gulsch.toNat = symbolBase s.uci 14 →
    ∃ t, exec .uciGenMux s = .next t ∧ t.status = .ok ∧ ∀ m, m < symbolBase s.uci 14 → t.peek .posUlsch m = some m

/-- R287: what a successful `UCI.GEN_MUX` guarantees: the four position lists are pairwise disjoint and cover `0 .. G_tot-1`, their lengths are
the targets, a symbol without UCI capacity goes whole to UL-SCH, and each list is strictly ascending. That a position memory holds nothing
definite beyond its list is the model's reading of R73 (log entry 6). -/
def Obligations.GenMuxPartitionsTheCodedBits : Prop :=
  ∀ s t : State, exec .uciGenMux s = .next t → t.status = .ok →
    ∃ pa p1 p2 pu : List Nat,
      ((∀ m, t.peek .posAck m = pa[m]?) ∧ (∀ m, t.peek .posCsi1 m = p1[m]?) ∧ (∀ m, t.peek .posCsi2 m = p2[m]?)
        ∧ (∀ m, t.peek .posUlsch m = pu[m]?))
      ∧ (pa ++ p1 ++ p2 ++ pu).Nodup
      ∧ (∀ i, i ∈ pa ++ p1 ++ p2 ++ pu ↔ i < t.uci.gtot.toNat)
      ∧ (pa.length = s.uci.gack.toNat ∧ p1.length = s.uci.gcsi1.toNat ∧ p2.length = s.uci.gcsi2.toNat
        ∧ pu.length = s.uci.gulsch.toNat)
      ∧ s.uci.gack.toNat + s.uci.gcsi1.toNat + s.uci.gcsi2.toNat + s.uci.gulsch.toNat = t.uci.gtot.toNat
      ∧ (∀ l, l < 14 → s.peek .muci l = some 0 → ∀ i, symbolBase s.uci l ≤ i → i < symbolBase s.uci (l + 1) → i ∈ pu)
      ∧ (pa.Pairwise (· < ·) ∧ p1.Pairwise (· < ·) ∧ p2.Pairwise (· < ·) ∧ pu.Pairwise (· < ·))

/-- R292: `UCI.MUX` needs valid positions and, for more than two HARQ-ACK bits, no marker; then every stream's element `m` stands at position `m` of
its category, `UCI_GSTATE` is 1 and `r[0]` is `G_tot`; no other space changes. -/
def Obligations.MuxPlacesTheStreams : Prop :=
  ∀ s : State,
    (s.uci.valid = false → exec .uciMux s = .next (refusedWith s .badState))
    ∧ (s.uci.valid = true → 2 < s.uci.oack.toNat →
        (∃ m v, m < s.uci.gack.toNat ∧ s.peek .bAck m = some v ∧ 2 ≤ v) → exec .uciMux s = .next (refusedWith s .badOperand))
    ∧ (s.uci.valid = true → UciInv s →
        s.uci.oack.toNat ≤ 2 ∨ (∀ m, m < s.uci.gack.toNat → ∃ v, s.peek .bAck m = some v ∧ v < 2) →
        ∃ t, exec .uciMux s = .next t
          ∧ t = completedAs s { s with r := { s.r with r0 := s.uci.gtot }, uci := { s.uci with gstate := .muxed },
                                       mem := { s.mem with gout := t.mem.gout } }
          ∧ (∀ m, m < s.uci.gack.toNat → ∃ p v, s.peek .posAck m = some p ∧ MayRead s .bAck m v ∧ t.peek .gout p = some v)
          ∧ (∀ m, m < s.uci.gcsi1.toNat → ∃ p v, s.peek .posCsi1 m = some p ∧ MayRead s .bCsi1 m v ∧ t.peek .gout p = some v)
          ∧ (∀ m, m < s.uci.gcsi2.toNat → ∃ p v, s.peek .posCsi2 m = some p ∧ MayRead s .bCsi2 m v ∧ t.peek .gout p = some v)
          ∧ (∀ m, m < s.uci.gulsch.toNat → ∃ p v, s.peek .posUlsch m = some p ∧ MayRead s .bUlsch m v ∧ t.peek .gout p = some v)
          ∧ ∀ i, i < s.uci.gtot.toNat → (t.peek .gout i).isSome)

/-- R296: `UCI.SCRAMBLE` needs an unscrambled sequence that does not start with a repetition marker; then a placeholder becomes 1, a repetition
copies the value its predecessor has after the command, every other index is XORed with the scrambling bit, and all values are bits. -/
def Obligations.ScrambleResolvesTheMarkers : Prop :=
  ∀ s : State,
    (¬(s.uci.valid = true ∧ s.uci.gstate = .muxed) → exec .uciScramble s = .next (refusedWith s .badState))
    ∧ (s.uci.valid = true → s.uci.gstate = .muxed → 0 < s.uci.gtot.toNat → s.peek .gout 0 = some 3 →
        exec .uciScramble s = .next (refusedWith s .badOperand))
    ∧ (s.uci.valid = true → s.uci.gstate = .muxed → (∀ i, i < s.uci.gtot.toNat → (s.peek .gout i).isSome) →
        ¬(0 < s.uci.gtot.toNat ∧ s.peek .gout 0 = some 3) →
        ∃ t, exec .uciScramble s = .next t
          ∧ t = completedAs s { s with r := { s.r with r0 := s.uci.gtot }, uci := { s.uci with gstate := .scrambled },
                                       mem := { s.mem with gout := t.mem.gout } }
          ∧ (∀ i, s.uci.gtot.toNat ≤ i → t.peek .gout i = s.peek .gout i)
          ∧ ∀ i, i < s.uci.gtot.toNat →
            (s.peek .gout i = some 2 → t.peek .gout i = some 1)
            ∧ (s.peek .gout i = some 3 → t.peek .gout i = t.peek .gout (i - 1))
            ∧ (∀ b, s.peek .gout i = some b → b < 2 → ∃ x, MayRead s .scr i x ∧ t.peek .gout i = some (b ^^^ x))
            ∧ (t.peek .gout i = some 0 ∨ t.peek .gout i = some 1))

/-- R299: `UCI.DEMUX` needs valid positions; then element `m` of each `L` space is the value of `LIN` at position `m` of its category, `r[0]` is
`G_tot`, and `UCI_GSTATE` does not change. -/
def Obligations.DemuxSortsTheValues : Prop :=
  ∀ s : State,
    (s.uci.valid = false → exec .uciDemux s = .next (refusedWith s .badState))
    ∧ (s.uci.valid = true → UciInv s →
        ∃ t, exec .uciDemux s = .next t
          ∧ t = completedAs s { s with r := { s.r with r0 := s.uci.gtot },
                                       mem := { s.mem with lAck := t.mem.lAck, lCsi1 := t.mem.lCsi1, lCsi2 := t.mem.lCsi2,
                                                           lUlsch := t.mem.lUlsch } }
          ∧ (∀ m, m < s.uci.gack.toNat → ∃ p v, s.peek .posAck m = some p ∧ MayRead s .lin p v ∧ t.peek .lAck m = some v)
          ∧ (∀ m, m < s.uci.gcsi1.toNat → ∃ p v, s.peek .posCsi1 m = some p ∧ MayRead s .lin p v ∧ t.peek .lCsi1 m = some v)
          ∧ (∀ m, m < s.uci.gcsi2.toNat → ∃ p v, s.peek .posCsi2 m = some p ∧ MayRead s .lin p v ∧ t.peek .lCsi2 m = some v)
          ∧ (∀ m, m < s.uci.gulsch.toNat → ∃ p v, s.peek .posUlsch m = some p ∧ MayRead s .lin p v ∧ t.peek .lUlsch m = some v))

/-- R299, the property: if `LIN[i]` is `GOUT[i]` after `UCI.MUX`, then `UCI.DEMUX` gives back every encoded bit of every category. -/
def Obligations.DemuxInvertsMux : Prop :=
  ∀ s t u v : State, UciInv s → exec .uciMux s = .next t → t.status = .ok →
    u.uci = t.uci → u.params = t.params →
    (∀ sp, sp = .posAck ∨ sp = .posCsi1 ∨ sp = .posCsi2 ∨ sp = .posUlsch → ∀ m, u.peek sp m = t.peek sp m) →
    (∀ i, i < t.uci.gtot.toNat → u.peek .lin i = t.peek .gout i) → exec .uciDemux u = .next v →
    v.status = .ok
    ∧ (∀ m x, m < s.uci.gack.toNat → s.peek .bAck m = some x → v.peek .lAck m = some x)
    ∧ (∀ m x, m < s.uci.gcsi1.toNat → s.peek .bCsi1 m = some x → v.peek .lCsi1 m = some x)
    ∧ (∀ m x, m < s.uci.gcsi2.toNat → s.peek .bCsi2 m = some x → v.peek .lCsi2 m = some x)
    ∧ (∀ m x, m < s.uci.gulsch.toNat → s.peek .bUlsch m = some x → v.peek .lUlsch m = some x)

/-- R26, R46, R48: every step keeps the UCIU flags honest: a valid flag means the position memories hold the partition of the current configuration,
and `GOUT` holds the sequence its state names, all bits once scrambled. That a position memory holds nothing definite beyond its list is the
model's reading of R73 (log entry 6). -/
def Obligations.StepKeepsUciFlagsHonest : Prop := ∀ s t : State, UciInv s → step s = .next t → UciInv t

/-- The canonical form of memory (log entry 4, the model's) is kept by every step, and no step changes the capacities (00_scope.md R7; held in
State by log entry 2). -/
def Obligations.StepKeepsMemoryCanonical : Prop :=
  ∀ s t : State, step s = .next t → t.params = s.params ∧ (s.mem.wf = true → t.mem.wf = true)
end

