-- ==== Sys2Proof/Laws/Bank.lean ====
section
/-! SUPPORT. The laws of the memory spaces: a read after a write, and the canonical form, which every operation keeps. -/

namespace Sys2Proof.Machine

theorem cellAt_cellSet_same {w : Nat} (l : List (Nat × BitVec w)) (a : Nat) (v : BitVec w) :
    cellAt (cellSet l a v) a = some v := by
  induction l with
  | nil => simp [cellSet, cellAt]
  | cons x xs ih =>
    obtain ⟨k, u⟩ := x
    simp only [cellSet]
    split
    · simp [cellAt]
    · split
      · simp [cellAt]
      · rename_i h
        simp [cellAt, Ne.symm h, ih]

theorem cellAt_cellSet_other {w : Nat} (l : List (Nat × BitVec w)) {a b : Nat} (v : BitVec w) (h : b ≠ a) :
    cellAt (cellSet l a v) b = cellAt l b := by
  induction l with
  | nil => simp [cellSet, cellAt, Ne.symm h]
  | cons x xs ih =>
    obtain ⟨k, u⟩ := x
    simp only [cellSet]
    split
    · simp [cellAt, Ne.symm h]
    · split
      · rename_i hk
        subst hk
        simp [cellAt, Ne.symm h]
      · simp [cellAt, ih]

@[simp] theorem Bank.get_empty {w : Nat} (a : Nat) : (Bank.empty : Bank w).get a = none := rfl

@[simp] theorem Bank.get_set_same {w : Nat} (b : Bank w) (a : Nat) (v : BitVec w) : (b.set a v).get a = some v :=
  cellAt_cellSet_same b.cells a v

@[simp] theorem Bank.get_set_other {w : Nat} (b : Bank w) {a c : Nat} (v : BitVec w) (h : c ≠ a) :
    (b.set a v).get c = b.get c :=
  cellAt_cellSet_other b.cells v h

theorem Bank.get_set {w : Nat} (b : Bank w) (a c : Nat) (v : BitVec w) :
    (b.set a v).get c = if c = a then some v else b.get c := by
  split
  · subst_vars; simp
  · simp [*]

/-- What a run of consecutive writes can do, said once: the new value inside the run, the old one outside. -/
theorem Bank.get_setFrom {w : Nat} (vs : List (BitVec w)) (b : Bank w) (a c : Nat) :
    (b.setFrom a vs).get c = if a ≤ c ∧ c < a + vs.length then vs[c - a]? else b.get c := by
  induction vs generalizing b a with
  | nil =>
    simp [Bank.setFrom]
  | cons v vs ih =>
    simp only [Bank.setFrom, ih, Bank.get_set, List.length_cons]
    by_cases h1 : a + 1 ≤ c ∧ c < a + 1 + vs.length
    · have h2 : a ≤ c ∧ c < a + (vs.length + 1) := by omega
      have h3 : c - a = (c - (a + 1)) + 1 := by omega
      simp [h1, h2, h3]
    · by_cases h4 : c = a
      · subst h4
        simp
      · have h2 : ¬(a ≤ c ∧ c < a + (vs.length + 1)) := by omega
        rw [if_neg h1, if_neg h4, if_neg h2]

theorem cellAt_cellsFrom {w : Nat} (vs : List (BitVec w)) (a c : Nat) :
    cellAt (cellsFrom a vs) c = if a ≤ c then vs[c - a]? else none := by
  induction vs generalizing a with
  | nil => simp [cellsFrom, cellAt]
  | cons v vs ih =>
    simp only [cellsFrom, cellAt, ih]
    by_cases h : a = c
    · subst h; simp
    · by_cases h2 : a + 1 ≤ c
      · have h3 : a ≤ c := by omega
        have h4 : c - a = (c - (a + 1)) + 1 := by omega
        simp [h, h2, h3, h4]
      · have h3 : ¬a ≤ c := by omega
        simp [h, h2, h3]

@[simp] theorem Bank.get_ofList {w : Nat} (vs : List (BitVec w)) (a : Nat) : (Bank.ofList vs).get a = vs[a]? := by
  simp [Bank.get, Bank.ofList, cellAt_cellsFrom]

/-! ### The canonical form -/

theorem rising_cons {a : Nat} {l : List Nat} : rising (a :: l) = true ↔ (∀ b ∈ l.head?, a < b) ∧ rising l = true := by
  cases l <;> simp [rising]

theorem head_cellSet {w : Nat} (l : List (Nat × BitVec w)) (a : Nat) (v : BitVec w) :
    ((cellSet l a v).map Prod.fst).head? = some (match (l.map Prod.fst).head? with | none => a | some k => min a k) := by
  cases l with
  | nil => simp [cellSet]
  | cons x xs =>
    obtain ⟨k, u⟩ := x
    simp only [cellSet]
    split
    · rename_i h; simp [Nat.min_eq_left (Nat.le_of_lt h)]
    · split
      · rename_i h; simp [h]
      · rename_i h1 h2; simp [Nat.min_eq_right (Nat.le_of_not_lt h1)]

theorem rising_cellSet {w : Nat} (l : List (Nat × BitVec w)) (a : Nat) (v : BitVec w)
    (h : rising (l.map Prod.fst) = true) : rising ((cellSet l a v).map Prod.fst) = true := by
  induction l with
  | nil => simp [cellSet, rising]
  | cons x xs ih =>
    obtain ⟨k, u⟩ := x
    simp only [List.map_cons, rising_cons] at h
    simp only [cellSet]
    split
    · rename_i hlt
      simp only [List.map_cons, rising_cons, List.head?_cons, Option.mem_some_iff, forall_eq']
      exact ⟨hlt, h⟩
    · split
      · rename_i heq
        subst heq
        simpa [List.map_cons, rising_cons] using h
      · rename_i hlt hne
        simp only [List.map_cons, rising_cons, ih h.2, and_true, head_cellSet, Option.mem_some_iff, forall_eq']
        have hak : k < a := by omega
        cases hx : (xs.map Prod.fst).head? with
        | none => simpa using hak
        | some m =>
          have : k < m := h.1 m (by simp [hx])
          simp [hak, this]

theorem Bank.wf_empty {w : Nat} : (Bank.empty : Bank w).wf = true := rfl

theorem Bank.wf_set {w : Nat} (b : Bank w) (a : Nat) (v : BitVec w) (h : b.wf = true) : (b.set a v).wf = true :=
  rising_cellSet b.cells a v h

theorem Bank.wf_setFrom {w : Nat} (vs : List (BitVec w)) (b : Bank w) (a : Nat) (h : b.wf = true) :
    (b.setFrom a vs).wf = true := by
  induction vs generalizing b a with
  | nil => exact h
  | cons v vs ih => exact ih _ _ (Bank.wf_set b a v h)

theorem Bank.wf_setAll {w : Nat} (xs : List (Nat × BitVec w)) (b : Bank w) (h : b.wf = true) :
    (b.setAll xs).wf = true := by
  unfold Bank.setAll
  induction xs generalizing b with
  | nil => exact h
  | cons x xs ih => exact ih _ (Bank.wf_set b x.1 x.2 h)

theorem rising_cellsFrom {w : Nat} (vs : List (BitVec w)) (a : Nat) :
    rising ((cellsFrom a vs).map Prod.fst) = true := by
  induction vs generalizing a with
  | nil => rfl
  | cons v vs ih =>
    simp only [cellsFrom, List.map_cons, rising_cons, ih, and_true]
    cases vs <;> simp [cellsFrom]

theorem Bank.wf_ofList {w : Nat} (vs : List (BitVec w)) : (Bank.ofList vs).wf = true := rising_cellsFrom vs 0

/-- The memory after reset is in canonical form. -/
theorem Memory.wf_reset : Memory.reset.wf = true := rfl

/-- The host's write keeps the canonical form of every space. -/
theorem State.poke_wf (s : State) (sp : Space) (a v : Nat) (h : s.mem.wf = true) : (s.poke sp a v).mem.wf = true := by
  simp only [Memory.wf, Bool.and_eq_true] at h ⊢
  cases sp <;> simp only [State.poke] <;> simp_all [Bank.wf_set]

end Sys2Proof.Machine
end

