-- ==== Sys2Proof/Laws/State.lean ====
section
/-! SUPPORT. One lemma per field for every update of the state: what the field holds afterwards. No later proof needs to unfold a
record update. -/

namespace Sys2Proof.Machine

/-! ## Completion of a command -/

@[simp] theorem State.complete_ok_params (s : State) (t : State) :
    (s.complete (.ok t)).params = t.params := rfl
@[simp] theorem State.complete_ok_inbox (s : State) (t : State) :
    (s.complete (.ok t)).inbox = t.inbox := rfl
@[simp] theorem State.complete_ok_serial (s : State) (t : State) :
    (s.complete (.ok t)).serial = t.serial := rfl
@[simp] theorem State.complete_ok_cursor (s : State) (t : State) :
    (s.complete (.ok t)).cursor = t.cursor := rfl
@[simp] theorem State.complete_ok_r (s : State) (t : State) :
    (s.complete (.ok t)).r = t.r := rfl
@[simp] theorem State.complete_ok_cseq (s : State) (t : State) :
    (s.complete (.ok t)).cseq = s.cseq + 1 := rfl
@[simp] theorem State.complete_ok_status (s : State) (t : State) :
    (s.complete (.ok t)).status = .ok := rfl
@[simp] theorem State.complete_ok_fatal (s : State) (t : State) :
    (s.complete (.ok t)).fatal = t.fatal := rfl
@[simp] theorem State.complete_ok_mac (s : State) (t : State) :
    (s.complete (.ok t)).mac = t.mac := rfl
@[simp] theorem State.complete_ok_rb (s : State) (t : State) :
    (s.complete (.ok t)).rb = t.rb := rfl
@[simp] theorem State.complete_ok_uci (s : State) (t : State) :
    (s.complete (.ok t)).uci = t.uci := rfl
@[simp] theorem State.complete_ok_mem (s : State) (t : State) :
    (s.complete (.ok t)).mem = t.mem := rfl

@[simp] theorem State.complete_raise_params (s : State) (e : Code) :
    (s.complete (.raise e)).params = s.params := rfl
@[simp] theorem State.complete_raise_inbox (s : State) (e : Code) :
    (s.complete (.raise e)).inbox = s.inbox := rfl
@[simp] theorem State.complete_raise_serial (s : State) (e : Code) :
    (s.complete (.raise e)).serial = s.serial := rfl
@[simp] theorem State.complete_raise_cursor (s : State) (e : Code) :
    (s.complete (.raise e)).cursor = s.cursor := rfl
@[simp] theorem State.complete_raise_r (s : State) (e : Code) :
    (s.complete (.raise e)).r = s.r := rfl
@[simp] theorem State.complete_raise_cseq (s : State) (e : Code) :
    (s.complete (.raise e)).cseq = s.cseq + 1 := rfl
@[simp] theorem State.complete_raise_status (s : State) (e : Code) :
    (s.complete (.raise e)).status = e := rfl
@[simp] theorem State.complete_raise_fatal (s : State) (e : Code) :
    (s.complete (.raise e)).fatal = s.fatal := rfl
@[simp] theorem State.complete_raise_mac (s : State) (e : Code) :
    (s.complete (.raise e)).mac = s.mac := rfl
@[simp] theorem State.complete_raise_rb (s : State) (e : Code) :
    (s.complete (.raise e)).rb = s.rb := rfl
@[simp] theorem State.complete_raise_uci (s : State) (e : Code) :
    (s.complete (.raise e)).uci = s.uci := rfl
@[simp] theorem State.complete_raise_mem (s : State) (e : Code) :
    (s.complete (.raise e)).mem = s.mem := rfl

@[simp] theorem State.complete_fatal_params (s : State) (c : FatalCause) :
    (s.complete (.fatal c)).params = s.params := rfl
@[simp] theorem State.complete_fatal_inbox (s : State) (c : FatalCause) :
    (s.complete (.fatal c)).inbox = s.inbox := rfl
@[simp] theorem State.complete_fatal_serial (s : State) (c : FatalCause) :
    (s.complete (.fatal c)).serial = s.serial := rfl
@[simp] theorem State.complete_fatal_cursor (s : State) (c : FatalCause) :
    (s.complete (.fatal c)).cursor = s.cursor := rfl
@[simp] theorem State.complete_fatal_r (s : State) (c : FatalCause) :
    (s.complete (.fatal c)).r = s.r := rfl
@[simp] theorem State.complete_fatal_cseq (s : State) (c : FatalCause) :
    (s.complete (.fatal c)).cseq = s.cseq + 1 := rfl
@[simp] theorem State.complete_fatal_status (s : State) (c : FatalCause) :
    (s.complete (.fatal c)).status = c.code := rfl
@[simp] theorem State.complete_fatal_fatal (s : State) (c : FatalCause) :
    (s.complete (.fatal c)).fatal = s.fatal.or (some c) := rfl
@[simp] theorem State.complete_fatal_mac (s : State) (c : FatalCause) :
    (s.complete (.fatal c)).mac = s.mac := rfl
@[simp] theorem State.complete_fatal_rb (s : State) (c : FatalCause) :
    (s.complete (.fatal c)).rb = s.rb := rfl
@[simp] theorem State.complete_fatal_uci (s : State) (c : FatalCause) :
    (s.complete (.fatal c)).uci = s.uci := rfl
@[simp] theorem State.complete_fatal_mem (s : State) (c : FatalCause) :
    (s.complete (.fatal c)).mem = s.mem := rfl

/-! ## Reset -/

@[simp] theorem State.softReset_params (s : State) :
    (s.softReset).params = s.params := rfl
@[simp] theorem State.softReset_inbox (s : State) :
    (s.softReset).inbox = s.inbox := rfl
@[simp] theorem State.softReset_serial (s : State) :
    (s.softReset).serial = s.serial := rfl
@[simp] theorem State.softReset_cursor (s : State) :
    (s.softReset).cursor = Cursor.idle := rfl
@[simp] theorem State.softReset_r (s : State) :
    (s.softReset).r = Regs.reset := rfl
@[simp] theorem State.softReset_cseq (s : State) :
    (s.softReset).cseq = 0 := rfl
@[simp] theorem State.softReset_status (s : State) :
    (s.softReset).status = .ok := rfl
@[simp] theorem State.softReset_fatal (s : State) :
    (s.softReset).fatal = none := rfl
@[simp] theorem State.softReset_mac (s : State) :
    (s.softReset).mac = Mac.reset := rfl
@[simp] theorem State.softReset_rb (s : State) :
    (s.softReset).rb = Rb.reset := rfl
@[simp] theorem State.softReset_uci (s : State) :
    (s.softReset).uci = Uci.reset := rfl
@[simp] theorem State.softReset_mem (s : State) :
    (s.softReset).mem = s.mem := rfl

@[simp] theorem State.hardReset_params (s : State) :
    (s.hardReset).params = s.params := rfl
@[simp] theorem State.hardReset_inbox (s : State) :
    (s.hardReset).inbox = s.inbox := rfl
@[simp] theorem State.hardReset_serial (s : State) :
    (s.hardReset).serial = s.serial := rfl
@[simp] theorem State.hardReset_cursor (s : State) :
    (s.hardReset).cursor = Cursor.idle := rfl
@[simp] theorem State.hardReset_r (s : State) :
    (s.hardReset).r = Regs.reset := rfl
@[simp] theorem State.hardReset_cseq (s : State) :
    (s.hardReset).cseq = 0 := rfl
@[simp] theorem State.hardReset_status (s : State) :
    (s.hardReset).status = .ok := rfl
@[simp] theorem State.hardReset_fatal (s : State) :
    (s.hardReset).fatal = none := rfl
@[simp] theorem State.hardReset_mac (s : State) :
    (s.hardReset).mac = Mac.reset := rfl
@[simp] theorem State.hardReset_rb (s : State) :
    (s.hardReset).rb = Rb.reset := rfl
@[simp] theorem State.hardReset_uci (s : State) :
    (s.hardReset).uci = Uci.reset := rfl
@[simp] theorem State.hardReset_mem (s : State) :
    (s.hardReset).mem = Memory.reset := rfl

/-! ## Issue of a command -/

@[simp] theorem State.issue_params (s : State) (rest : List CmdWord) :
    (s.issue rest).params = s.params := rfl
@[simp] theorem State.issue_inbox (s : State) (rest : List CmdWord) :
    (s.issue rest).inbox = rest := rfl
@[simp] theorem State.issue_serial (s : State) (rest : List CmdWord) :
    (s.issue rest).serial = s.serial + 1 := rfl
@[simp] theorem State.issue_cursor (s : State) (rest : List CmdWord) :
    (s.issue rest).cursor = s.cursor := rfl
@[simp] theorem State.issue_r (s : State) (rest : List CmdWord) :
    (s.issue rest).r = s.r := rfl
@[simp] theorem State.issue_cseq (s : State) (rest : List CmdWord) :
    (s.issue rest).cseq = s.cseq := rfl
@[simp] theorem State.issue_status (s : State) (rest : List CmdWord) :
    (s.issue rest).status = s.status := rfl
@[simp] theorem State.issue_fatal (s : State) (rest : List CmdWord) :
    (s.issue rest).fatal = s.fatal := rfl
@[simp] theorem State.issue_mac (s : State) (rest : List CmdWord) :
    (s.issue rest).mac = s.mac := rfl
@[simp] theorem State.issue_rb (s : State) (rest : List CmdWord) :
    (s.issue rest).rb = s.rb := rfl
@[simp] theorem State.issue_uci (s : State) (rest : List CmdWord) :
    (s.issue rest).uci = s.uci := rfl
@[simp] theorem State.issue_mem (s : State) (rest : List CmdWord) :
    (s.issue rest).mem = s.mem := rfl

@[simp] theorem State.withCommand_params (s : State) (w : CmdWord) :
    (s.withCommand w).params = s.params := rfl
@[simp] theorem State.withCommand_inbox (s : State) (w : CmdWord) :
    (s.withCommand w).inbox = w :: s.inbox := rfl
@[simp] theorem State.withCommand_serial (s : State) (w : CmdWord) :
    (s.withCommand w).serial = s.serial := rfl
@[simp] theorem State.withCommand_cursor (s : State) (w : CmdWord) :
    (s.withCommand w).cursor = Cursor.idle := rfl
@[simp] theorem State.withCommand_r (s : State) (w : CmdWord) :
    (s.withCommand w).r = s.r := rfl
@[simp] theorem State.withCommand_cseq (s : State) (w : CmdWord) :
    (s.withCommand w).cseq = s.cseq := rfl
@[simp] theorem State.withCommand_status (s : State) (w : CmdWord) :
    (s.withCommand w).status = s.status := rfl
@[simp] theorem State.withCommand_fatal (s : State) (w : CmdWord) :
    (s.withCommand w).fatal = s.fatal := rfl
@[simp] theorem State.withCommand_mac (s : State) (w : CmdWord) :
    (s.withCommand w).mac = s.mac := rfl
@[simp] theorem State.withCommand_rb (s : State) (w : CmdWord) :
    (s.withCommand w).rb = s.rb := rfl
@[simp] theorem State.withCommand_uci (s : State) (w : CmdWord) :
    (s.withCommand w).uci = s.uci := rfl
@[simp] theorem State.withCommand_mem (s : State) (w : CmdWord) :
    (s.withCommand w).mem = s.mem := rfl

/-! ## RBAU results -/

@[simp] theorem State.putInterval_params (s : State) (iv : Nat × Nat) (found : Bool) :
    (s.putInterval iv found).params = s.params := rfl
@[simp] theorem State.putInterval_inbox (s : State) (iv : Nat × Nat) (found : Bool) :
    (s.putInterval iv found).inbox = s.inbox := rfl
@[simp] theorem State.putInterval_serial (s : State) (iv : Nat × Nat) (found : Bool) :
    (s.putInterval iv found).serial = s.serial := rfl
@[simp] theorem State.putInterval_cursor (s : State) (iv : Nat × Nat) (found : Bool) :
    (s.putInterval iv found).cursor = s.cursor := rfl
@[simp] theorem State.putInterval_r (s : State) (iv : Nat × Nat) (found : Bool) :
    (s.putInterval iv found).r = { s.r with r0 := word iv.1, r1 := word iv.2, r2 := word found.toNat } := rfl
@[simp] theorem State.putInterval_cseq (s : State) (iv : Nat × Nat) (found : Bool) :
    (s.putInterval iv found).cseq = s.cseq := rfl
@[simp] theorem State.putInterval_status (s : State) (iv : Nat × Nat) (found : Bool) :
    (s.putInterval iv found).status = s.status := rfl
@[simp] theorem State.putInterval_fatal (s : State) (iv : Nat × Nat) (found : Bool) :
    (s.putInterval iv found).fatal = s.fatal := rfl
@[simp] theorem State.putInterval_mac (s : State) (iv : Nat × Nat) (found : Bool) :
    (s.putInterval iv found).mac = s.mac := rfl
@[simp] theorem State.putInterval_rb (s : State) (iv : Nat × Nat) (found : Bool) :
    (s.putInterval iv found).rb = s.rb := rfl
@[simp] theorem State.putInterval_uci (s : State) (iv : Nat × Nat) (found : Bool) :
    (s.putInterval iv found).uci = s.uci := rfl
@[simp] theorem State.putInterval_mem (s : State) (iv : Nat × Nat) (found : Bool) :
    (s.putInterval iv found).mem = s.mem := rfl

/-! ## MACU -/

@[simp] theorem State.commitParse_params (s : State) (c : Cursor) :
    (s.commitParse c).params = s.params := rfl
@[simp] theorem State.commitParse_inbox (s : State) (c : Cursor) :
    (s.commitParse c).inbox = s.inbox := rfl
@[simp] theorem State.commitParse_serial (s : State) (c : Cursor) :
    (s.commitParse c).serial = s.serial := rfl
@[simp] theorem State.commitParse_cursor (s : State) (c : Cursor) :
    (s.commitParse c).cursor = Cursor.idle := rfl
@[simp] theorem State.commitParse_r (s : State) (c : Cursor) :
    (s.commitParse c).r = { s.r with r0 := word c.list.length, r1 := word c.len } := rfl
@[simp] theorem State.commitParse_cseq (s : State) (c : Cursor) :
    (s.commitParse c).cseq = s.cseq := rfl
@[simp] theorem State.commitParse_status (s : State) (c : Cursor) :
    (s.commitParse c).status = s.status := rfl
@[simp] theorem State.commitParse_fatal (s : State) (c : Cursor) :
    (s.commitParse c).fatal = s.fatal := rfl
@[simp] theorem State.commitParse_mac (s : State) (c : Cursor) :
    (s.commitParse c).mac = { s.mac with sp := c.list, tbLen := word c.len, mode := .rxDone } := rfl
@[simp] theorem State.commitParse_rb (s : State) (c : Cursor) :
    (s.commitParse c).rb = s.rb := rfl
@[simp] theorem State.commitParse_uci (s : State) (c : Cursor) :
    (s.commitParse c).uci = s.uci := rfl
@[simp] theorem State.commitParse_mem (s : State) (c : Cursor) :
    (s.commitParse c).mem = s.mem := rfl

@[simp] theorem State.putSubPdu_params (s : State) (lcid : BitVec 6) (f : Bool) (hlen slen : Nat) (pay : List Byte) :
    (s.putSubPdu lcid f hlen slen pay).params = s.params := rfl
@[simp] theorem State.putSubPdu_inbox (s : State) (lcid : BitVec 6) (f : Bool) (hlen slen : Nat) (pay : List Byte) :
    (s.putSubPdu lcid f hlen slen pay).inbox = s.inbox := rfl
@[simp] theorem State.putSubPdu_serial (s : State) (lcid : BitVec 6) (f : Bool) (hlen slen : Nat) (pay : List Byte) :
    (s.putSubPdu lcid f hlen slen pay).serial = s.serial := rfl
@[simp] theorem State.putSubPdu_cursor (s : State) (lcid : BitVec 6) (f : Bool) (hlen slen : Nat) (pay : List Byte) :
    (s.putSubPdu lcid f hlen slen pay).cursor = s.cursor := rfl
@[simp] theorem State.putSubPdu_r (s : State) (lcid : BitVec 6) (f : Bool) (hlen slen : Nat) (pay : List Byte) :
    (s.putSubPdu lcid f hlen slen pay).r = s.r := rfl
@[simp] theorem State.putSubPdu_cseq (s : State) (lcid : BitVec 6) (f : Bool) (hlen slen : Nat) (pay : List Byte) :
    (s.putSubPdu lcid f hlen slen pay).cseq = s.cseq := rfl
@[simp] theorem State.putSubPdu_status (s : State) (lcid : BitVec 6) (f : Bool) (hlen slen : Nat) (pay : List Byte) :
    (s.putSubPdu lcid f hlen slen pay).status = s.status := rfl
@[simp] theorem State.putSubPdu_fatal (s : State) (lcid : BitVec 6) (f : Bool) (hlen slen : Nat) (pay : List Byte) :
    (s.putSubPdu lcid f hlen slen pay).fatal = s.fatal := rfl
@[simp] theorem State.putSubPdu_rb (s : State) (lcid : BitVec 6) (f : Bool) (hlen slen : Nat) (pay : List Byte) :
    (s.putSubPdu lcid f hlen slen pay).rb = s.rb := rfl
@[simp] theorem State.putSubPdu_uci (s : State) (lcid : BitVec 6) (f : Bool) (hlen slen : Nat) (pay : List Byte) :
    (s.putSubPdu lcid f hlen slen pay).uci = s.uci := rfl
@[simp] theorem State.putSubPdu_mac_mode (s : State) (lcid : BitVec 6) (f : Bool) (hlen slen : Nat) (pay : List Byte) :
    (s.putSubPdu lcid f hlen slen pay).mac.mode = s.mac.mode := rfl
@[simp] theorem State.putSubPdu_mac_dir (s : State) (lcid : BitVec 6) (f : Bool) (hlen slen : Nat) (pay : List Byte) :
    (s.putSubPdu lcid f hlen slen pay).mac.dir = s.mac.dir := rfl
@[simp] theorem State.putSubPdu_mac_tbLen (s : State) (lcid : BitVec 6) (f : Bool) (hlen slen : Nat) (pay : List Byte) :
    (s.putSubPdu lcid f hlen slen pay).mac.tbLen = s.mac.tbLen := rfl
@[simp] theorem State.putSubPdu_mac_remain (s : State) (lcid : BitVec 6) (f : Bool) (hlen slen : Nat) (pay : List Byte) :
    (s.putSubPdu lcid f hlen slen pay).mac.remain = word (s.mac.remain.toNat - (hlen + slen)) := rfl
@[simp] theorem State.putSubPdu_mac_woff (s : State) (lcid : BitVec 6) (f : Bool) (hlen slen : Nat) (pay : List Byte) :
    (s.putSubPdu lcid f hlen slen pay).mac.woff = word (s.mac.woff.toNat + (hlen + slen)) := rfl
@[simp] theorem State.putSubPdu_mac_sp (s : State) (lcid : BitVec 6) (f : Bool) (hlen slen : Nat) (pay : List Byte) :
    (s.putSubPdu lcid f hlen slen pay).mac.sp = s.mac.sp ++ [mkDesc lcid f hlen slen (s.mac.woff.toNat + hlen)] := rfl
@[simp] theorem State.putSubPdu_tb (s : State) (lcid : BitVec 6) (f : Bool) (hlen slen : Nat) (pay : List Byte) :
    (s.putSubPdu lcid f hlen slen pay).mem.tb = s.mem.tb.setFrom s.mac.woff.toNat (headerBytes lcid f hlen slen ++ pay) := rfl
@[simp] theorem State.putSubPdu_pl (s : State) (lcid : BitVec 6) (f : Bool) (hlen slen : Nat) (pay : List Byte) :
    (s.putSubPdu lcid f hlen slen pay).mem.pl = s.mem.pl := rfl
@[simp] theorem State.putSubPdu_bAck (s : State) (lcid : BitVec 6) (f : Bool) (hlen slen : Nat) (pay : List Byte) :
    (s.putSubPdu lcid f hlen slen pay).mem.bAck = s.mem.bAck := rfl
@[simp] theorem State.putSubPdu_bCsi1 (s : State) (lcid : BitVec 6) (f : Bool) (hlen slen : Nat) (pay : List Byte) :
    (s.putSubPdu lcid f hlen slen pay).mem.bCsi1 = s.mem.bCsi1 := rfl
@[simp] theorem State.putSubPdu_bCsi2 (s : State) (lcid : BitVec 6) (f : Bool) (hlen slen : Nat) (pay : List Byte) :
    (s.putSubPdu lcid f hlen slen pay).mem.bCsi2 = s.mem.bCsi2 := rfl
@[simp] theorem State.putSubPdu_bUlsch (s : State) (lcid : BitVec 6) (f : Bool) (hlen slen : Nat) (pay : List Byte) :
    (s.putSubPdu lcid f hlen slen pay).mem.bUlsch = s.mem.bUlsch := rfl
@[simp] theorem State.putSubPdu_scr (s : State) (lcid : BitVec 6) (f : Bool) (hlen slen : Nat) (pay : List Byte) :
    (s.putSubPdu lcid f hlen slen pay).mem.scr = s.mem.scr := rfl
@[simp] theorem State.putSubPdu_gout (s : State) (lcid : BitVec 6) (f : Bool) (hlen slen : Nat) (pay : List Byte) :
    (s.putSubPdu lcid f hlen slen pay).mem.gout = s.mem.gout := rfl
@[simp] theorem State.putSubPdu_posAck (s : State) (lcid : BitVec 6) (f : Bool) (hlen slen : Nat) (pay : List Byte) :
    (s.putSubPdu lcid f hlen slen pay).mem.posAck = s.mem.posAck := rfl
@[simp] theorem State.putSubPdu_posCsi1 (s : State) (lcid : BitVec 6) (f : Bool) (hlen slen : Nat) (pay : List Byte) :
    (s.putSubPdu lcid f hlen slen pay).mem.posCsi1 = s.mem.posCsi1 := rfl
@[simp] theorem State.putSubPdu_posCsi2 (s : State) (lcid : BitVec 6) (f : Bool) (hlen slen : Nat) (pay : List Byte) :
    (s.putSubPdu lcid f hlen slen pay).mem.posCsi2 = s.mem.posCsi2 := rfl
@[simp] theorem State.putSubPdu_posUlsch (s : State) (lcid : BitVec 6) (f : Bool) (hlen slen : Nat) (pay : List Byte) :
    (s.putSubPdu lcid f hlen slen pay).mem.posUlsch = s.mem.posUlsch := rfl
@[simp] theorem State.putSubPdu_lin (s : State) (lcid : BitVec 6) (f : Bool) (hlen slen : Nat) (pay : List Byte) :
    (s.putSubPdu lcid f hlen slen pay).mem.lin = s.mem.lin := rfl
@[simp] theorem State.putSubPdu_lAck (s : State) (lcid : BitVec 6) (f : Bool) (hlen slen : Nat) (pay : List Byte) :
    (s.putSubPdu lcid f hlen slen pay).mem.lAck = s.mem.lAck := rfl
@[simp] theorem State.putSubPdu_lCsi1 (s : State) (lcid : BitVec 6) (f : Bool) (hlen slen : Nat) (pay : List Byte) :
    (s.putSubPdu lcid f hlen slen pay).mem.lCsi1 = s.mem.lCsi1 := rfl
@[simp] theorem State.putSubPdu_lCsi2 (s : State) (lcid : BitVec 6) (f : Bool) (hlen slen : Nat) (pay : List Byte) :
    (s.putSubPdu lcid f hlen slen pay).mem.lCsi2 = s.mem.lCsi2 := rfl
@[simp] theorem State.putSubPdu_lUlsch (s : State) (lcid : BitVec 6) (f : Bool) (hlen slen : Nat) (pay : List Byte) :
    (s.putSubPdu lcid f hlen slen pay).mem.lUlsch = s.mem.lUlsch := rfl

@[simp] theorem mkDesc_lcid (lcid : BitVec 6) (f : Bool) (hlen slen soff : Nat) :
    (mkDesc lcid f hlen slen soff).lcid = lcid := rfl
@[simp] theorem mkDesc_f (lcid : BitVec 6) (f : Bool) (hlen slen soff : Nat) :
    (mkDesc lcid f hlen slen soff).f = f := rfl
@[simp] theorem mkDesc_hlen (lcid : BitVec 6) (f : Bool) (hlen slen soff : Nat) :
    (mkDesc lcid f hlen slen soff).hlen = BitVec.ofNat 2 hlen := rfl
@[simp] theorem mkDesc_slen (lcid : BitVec 6) (f : Bool) (hlen slen soff : Nat) :
    (mkDesc lcid f hlen slen soff).slen = word slen := rfl
@[simp] theorem mkDesc_soff (lcid : BitVec 6) (f : Bool) (hlen slen soff : Nat) :
    (mkDesc lcid f hlen slen soff).soff = word soff := rfl

/-! ## UCIU -/

@[simp] theorem Uci.invalidate_l1 (u : Uci) : u.invalidate.l1 = u.l1 := rfl
@[simp] theorem Uci.invalidate_l1csi (u : Uci) : u.invalidate.l1csi = u.l1csi := rfl
@[simp] theorem Uci.invalidate_nl (u : Uci) : u.invalidate.nl = u.nl := rfl
@[simp] theorem Uci.invalidate_qm (u : Uci) : u.invalidate.qm = u.qm := rfl
@[simp] theorem Uci.invalidate_oack (u : Uci) : u.invalidate.oack = u.oack := rfl
@[simp] theorem Uci.invalidate_gack (u : Uci) : u.invalidate.gack = u.gack := rfl
@[simp] theorem Uci.invalidate_gackrvd (u : Uci) : u.invalidate.gackrvd = u.gackrvd := rfl
@[simp] theorem Uci.invalidate_gcsi1 (u : Uci) : u.invalidate.gcsi1 = u.gcsi1 := rfl
@[simp] theorem Uci.invalidate_gcsi2 (u : Uci) : u.invalidate.gcsi2 = u.gcsi2 := rfl
@[simp] theorem Uci.invalidate_gulsch (u : Uci) : u.invalidate.gulsch = u.gulsch := rfl
@[simp] theorem Uci.invalidate_nofre (u : Uci) : u.invalidate.nofre = u.nofre := rfl
@[simp] theorem Uci.invalidate_valid (u : Uci) : u.invalidate.valid = false := rfl
@[simp] theorem Uci.invalidate_gtot (u : Uci) : u.invalidate.gtot = 0 := rfl
@[simp] theorem Uci.invalidate_gstate (u : Uci) : u.invalidate.gstate = .empty := rfl
@[simp] theorem Uci.invalidate_msc (u : Uci) : u.invalidate.msc = u.msc := rfl
@[simp] theorem Uci.invalidate_muci (u : Uci) : u.invalidate.muci = u.muci := rfl

@[simp] theorem Memory.putPositions_tb (m : Memory) (p : MuxLists) : (m.putPositions p).tb = m.tb := rfl
@[simp] theorem Memory.putPositions_pl (m : Memory) (p : MuxLists) : (m.putPositions p).pl = m.pl := rfl
@[simp] theorem Memory.putPositions_bAck (m : Memory) (p : MuxLists) : (m.putPositions p).bAck = m.bAck := rfl
@[simp] theorem Memory.putPositions_bCsi1 (m : Memory) (p : MuxLists) : (m.putPositions p).bCsi1 = m.bCsi1 := rfl
@[simp] theorem Memory.putPositions_bCsi2 (m : Memory) (p : MuxLists) : (m.putPositions p).bCsi2 = m.bCsi2 := rfl
@[simp] theorem Memory.putPositions_bUlsch (m : Memory) (p : MuxLists) : (m.putPositions p).bUlsch = m.bUlsch := rfl
@[simp] theorem Memory.putPositions_scr (m : Memory) (p : MuxLists) : (m.putPositions p).scr = m.scr := rfl
@[simp] theorem Memory.putPositions_gout (m : Memory) (p : MuxLists) : (m.putPositions p).gout = m.gout := rfl
@[simp] theorem Memory.putPositions_posAck (m : Memory) (p : MuxLists) : (m.putPositions p).posAck = Bank.ofList (p.pa.map word) := rfl
@[simp] theorem Memory.putPositions_posCsi1 (m : Memory) (p : MuxLists) : (m.putPositions p).posCsi1 = Bank.ofList (p.p1.map word) := rfl
@[simp] theorem Memory.putPositions_posCsi2 (m : Memory) (p : MuxLists) : (m.putPositions p).posCsi2 = Bank.ofList (p.p2.map word) := rfl
@[simp] theorem Memory.putPositions_posUlsch (m : Memory) (p : MuxLists) : (m.putPositions p).posUlsch = Bank.ofList (p.pu.map word) := rfl
@[simp] theorem Memory.putPositions_lin (m : Memory) (p : MuxLists) : (m.putPositions p).lin = m.lin := rfl
@[simp] theorem Memory.putPositions_lAck (m : Memory) (p : MuxLists) : (m.putPositions p).lAck = m.lAck := rfl
@[simp] theorem Memory.putPositions_lCsi1 (m : Memory) (p : MuxLists) : (m.putPositions p).lCsi1 = m.lCsi1 := rfl
@[simp] theorem Memory.putPositions_lCsi2 (m : Memory) (p : MuxLists) : (m.putPositions p).lCsi2 = m.lCsi2 := rfl
@[simp] theorem Memory.putPositions_lUlsch (m : Memory) (p : MuxLists) : (m.putPositions p).lUlsch = m.lUlsch := rfl

/-! ## RBAU -/

@[simp] theorem Rb.clear_nprb (rb : Rb) :
    (rb.clear).nprb = rb.nprb := rfl
@[simp] theorem Rb.clear_start (rb : Rb) :
    (rb.clear).start = rb.start := rfl
@[simp] theorem Rb.clear_cfg (rb : Rb) :
    (rb.clear).cfg = rb.cfg := rfl
@[simp] theorem Rb.clear_p (rb : Rb) :
    (rb.clear).p = rb.p := rfl
@[simp] theorem Rb.clear_first (rb : Rb) :
    (rb.clear).first = rb.first := rfl
@[simp] theorem Rb.clear_nrbg (rb : Rb) :
    (rb.clear).nrbg = rb.nrbg := rfl
@[simp] theorem Rb.clear_prbs (rb : Rb) :
    (rb.clear).prbs = 0 := rfl
@[simp] theorem Rb.clear_rbgs (rb : Rb) :
    (rb.clear).rbgs = 0 := rfl
@[simp] theorem Rb.clear_gr (rb : Rb) :
    (rb.clear).gr = rb.gr := rfl

@[simp] theorem Rb.addInterval_nprb (rb : Rb) (a b : Nat) :
    (rb.addInterval a b).nprb = rb.nprb := rfl
@[simp] theorem Rb.addInterval_start (rb : Rb) (a b : Nat) :
    (rb.addInterval a b).start = rb.start := rfl
@[simp] theorem Rb.addInterval_cfg (rb : Rb) (a b : Nat) :
    (rb.addInterval a b).cfg = rb.cfg := rfl
@[simp] theorem Rb.addInterval_p (rb : Rb) (a b : Nat) :
    (rb.addInterval a b).p = rb.p := rfl
@[simp] theorem Rb.addInterval_first (rb : Rb) (a b : Nat) :
    (rb.addInterval a b).first = rb.first := rfl
@[simp] theorem Rb.addInterval_nrbg (rb : Rb) (a b : Nat) :
    (rb.addInterval a b).nrbg = rb.nrbg := rfl
@[simp] theorem Rb.addInterval_prbs (rb : Rb) (a b : Nat) :
    (rb.addInterval a b).prbs = setBits rb.prbs (List.range' a (b - a)) := rfl
@[simp] theorem Rb.addInterval_rbgs (rb : Rb) (a b : Nat) :
    (rb.addInterval a b).rbgs = setBits rb.rbgs ((List.range' a (b - a)).map rb.toRbg) := rfl
@[simp] theorem Rb.addInterval_gr (rb : Rb) (a b : Nat) :
    (rb.addInterval a b).gr = rb.gr := rfl

@[simp] theorem Rb.addRbgs_nprb (rb : Rb) (mask : BitVec 19) :
    (rb.addRbgs mask).nprb = rb.nprb := rfl
@[simp] theorem Rb.addRbgs_start (rb : Rb) (mask : BitVec 19) :
    (rb.addRbgs mask).start = rb.start := rfl
@[simp] theorem Rb.addRbgs_cfg (rb : Rb) (mask : BitVec 19) :
    (rb.addRbgs mask).cfg = rb.cfg := rfl
@[simp] theorem Rb.addRbgs_p (rb : Rb) (mask : BitVec 19) :
    (rb.addRbgs mask).p = rb.p := rfl
@[simp] theorem Rb.addRbgs_first (rb : Rb) (mask : BitVec 19) :
    (rb.addRbgs mask).first = rb.first := rfl
@[simp] theorem Rb.addRbgs_nrbg (rb : Rb) (mask : BitVec 19) :
    (rb.addRbgs mask).nrbg = rb.nrbg := rfl
@[simp] theorem Rb.addRbgs_prbs (rb : Rb) (mask : BitVec 19) :
    (rb.addRbgs mask).prbs = setBits rb.prbs ((rb.maskRbgs mask).flatMap (rbgPrbs rb.nprb.toNat rb.p.toNat rb.first.toNat)) := rfl
@[simp] theorem Rb.addRbgs_rbgs (rb : Rb) (mask : BitVec 19) :
    (rb.addRbgs mask).rbgs = setBits rb.rbgs (rb.maskRbgs mask) := rfl
@[simp] theorem Rb.addRbgs_gr (rb : Rb) (mask : BitVec 19) :
    (rb.addRbgs mask).gr = rb.gr := rfl

@[simp] theorem Rb.init_nprb (rb : Rb) (cfg : RbgConfig) (a n : Nat) :
    (rb.init cfg a n).nprb = BitVec.ofNat 9 n := rfl
@[simp] theorem Rb.init_start (rb : Rb) (cfg : RbgConfig) (a n : Nat) :
    (rb.init cfg a n).start = BitVec.ofNat 9 a := rfl
@[simp] theorem Rb.init_cfg (rb : Rb) (cfg : RbgConfig) (a n : Nat) :
    (rb.init cfg a n).cfg = cfg := rfl
@[simp] theorem Rb.init_p (rb : Rb) (cfg : RbgConfig) (a n : Nat) :
    (rb.init cfg a n).p = BitVec.ofNat 5 (rbgP n cfg) := rfl
@[simp] theorem Rb.init_first (rb : Rb) (cfg : RbgConfig) (a n : Nat) :
    (rb.init cfg a n).first = BitVec.ofNat 5 (rbgP n cfg - a % rbgP n cfg) := rfl
@[simp] theorem Rb.init_nrbg (rb : Rb) (cfg : RbgConfig) (a n : Nat) :
    (rb.init cfg a n).nrbg = BitVec.ofNat 5 (ceilDiv (n + a % rbgP n cfg) (rbgP n cfg)) := rfl
@[simp] theorem Rb.init_prbs (rb : Rb) (cfg : RbgConfig) (a n : Nat) :
    (rb.init cfg a n).prbs = 0 := rfl
@[simp] theorem Rb.init_rbgs (rb : Rb) (cfg : RbgConfig) (a n : Nat) :
    (rb.init cfg a n).rbgs = 0 := rfl
@[simp] theorem Rb.init_gr (rb : Rb) (cfg : RbgConfig) (a n : Nat) :
    (rb.init cfg a n).gr = rb.gr := rfl

/-! ## Host writes -/

@[simp] theorem State.poke_params (s : State) (sp : Space) (a v : Nat) : (s.poke sp a v).params = s.params := by
  cases sp <;> rfl
@[simp] theorem State.poke_inbox (s : State) (sp : Space) (a v : Nat) : (s.poke sp a v).inbox = s.inbox := by
  cases sp <;> rfl
@[simp] theorem State.poke_serial (s : State) (sp : Space) (a v : Nat) : (s.poke sp a v).serial = s.serial := by
  cases sp <;> rfl
@[simp] theorem State.poke_cursor (s : State) (sp : Space) (a v : Nat) : (s.poke sp a v).cursor = s.cursor := by
  cases sp <;> rfl
@[simp] theorem State.poke_r (s : State) (sp : Space) (a v : Nat) : (s.poke sp a v).r = s.r := by
  cases sp <;> rfl
@[simp] theorem State.poke_cseq (s : State) (sp : Space) (a v : Nat) : (s.poke sp a v).cseq = s.cseq := by
  cases sp <;> rfl
@[simp] theorem State.poke_status (s : State) (sp : Space) (a v : Nat) : (s.poke sp a v).status = s.status := by
  cases sp <;> rfl
@[simp] theorem State.poke_fatal (s : State) (sp : Space) (a v : Nat) : (s.poke sp a v).fatal = s.fatal := by
  cases sp <;> rfl
@[simp] theorem State.poke_mac (s : State) (sp : Space) (a v : Nat) : (s.poke sp a v).mac = s.mac := by
  cases sp <;> rfl
@[simp] theorem State.hostWrite_params (s : State) (sp : Space) (a v : Nat) : (s.hostWrite sp a v).params = s.params := by
  cases sp <;> rfl
@[simp] theorem State.hostWrite_inbox (s : State) (sp : Space) (a v : Nat) : (s.hostWrite sp a v).inbox = s.inbox := by
  cases sp <;> rfl
@[simp] theorem State.hostWrite_serial (s : State) (sp : Space) (a v : Nat) : (s.hostWrite sp a v).serial = s.serial := by
  cases sp <;> rfl
@[simp] theorem State.hostWrite_cursor (s : State) (sp : Space) (a v : Nat) : (s.hostWrite sp a v).cursor = s.cursor := by
  cases sp <;> rfl
@[simp] theorem State.hostWrite_r (s : State) (sp : Space) (a v : Nat) : (s.hostWrite sp a v).r = s.r := by
  cases sp <;> rfl
@[simp] theorem State.hostWrite_cseq (s : State) (sp : Space) (a v : Nat) : (s.hostWrite sp a v).cseq = s.cseq := by
  cases sp <;> rfl
@[simp] theorem State.hostWrite_status (s : State) (sp : Space) (a v : Nat) : (s.hostWrite sp a v).status = s.status := by
  cases sp <;> rfl
@[simp] theorem State.hostWrite_fatal (s : State) (sp : Space) (a v : Nat) : (s.hostWrite sp a v).fatal = s.fatal := by
  cases sp <;> rfl
@[simp] theorem State.hostWrite_mac (s : State) (sp : Space) (a v : Nat) : (s.hostWrite sp a v).mac = s.mac := by
  cases sp <;> rfl
@[simp] theorem State.hostWrite_mem (s : State) (sp : Space) (a v : Nat) :
    (s.hostWrite sp a v).mem = (s.poke sp a v).mem := by
  cases sp <;> rfl
@[simp] theorem State.hostWrite_rb (s : State) (sp : Space) (a v : Nat) :
    (s.hostWrite sp a v).rb = (s.poke sp a v).rb := by
  cases sp <;> rfl

end Sys2Proof.Machine
end

