-- ==== Sys2Proof/Laws/Ops.lean ====
section
/-! SUPPORT. For each shared operation one lemma that says once everything it can do, for later proofs to cite instead of
unfolding it. -/

namespace Sys2Proof.Machine

/-! ## Preconditions and completion -/

@[simp] theorem require_of {p : Prop} [Decidable p] {e : Code} {k : Result} (h : p) : require p e k = k := if_pos h

@[simp] theorem require_of_not {p : Prop} [Decidable p] {e : Code} {k : Result} (h : ¬p) :
    require p e k = .raise e := if_neg h

theorem require_eq_ok {p : Prop} [Decidable p] {e : Code} {k : Result} {t : State} :
    require p e k = .ok t ↔ p ∧ k = .ok t := by
  by_cases h : p <;> simp [h]

theorem require_eq_raise {p : Prop} [Decidable p] {e c : Code} {k : Result} :
    require p e k = .raise c ↔ (¬p ∧ c = e) ∨ (p ∧ k = .raise c) := by
  by_cases h : p <;> simp [h, eq_comm]

theorem require_eq_fatal {p : Prop} [Decidable p] {e : Code} {c : FatalCause} {k : Result} :
    require p e k = .fatal c ↔ p ∧ k = .fatal c := by
  by_cases h : p <;> simp [h]

/-- A completion is one of three: the writes and `OK`, a code alone, or a code and the lock. -/
theorem State.complete_cases (s : State) (res : Result) :
    (∃ t, res = .ok t ∧ s.complete res = { t with status := .ok, cseq := s.cseq + 1 })
      ∨ (∃ e, res = .raise e ∧ s.complete res = { s with status := e, cseq := s.cseq + 1 })
      ∨ ∃ c, res = .fatal c
        ∧ s.complete res = { s with status := c.code, fatal := s.fatal.or (some c), cseq := s.cseq + 1 } := by
  cases res with
  | ok t => exact .inl ⟨t, rfl, rfl⟩
  | raise e => exact .inr (.inl ⟨e, rfl, rfl⟩)
  | fatal c => exact .inr (.inr ⟨c, rfl, rfl⟩)

/-- A completion that does not report `OK` discards every write of the command. -/
theorem State.complete_of_status_ne_ok (s : State) (res : Result) (h : (s.complete res).status ≠ .ok) :
    s.complete res = { s with status := (s.complete res).status, cseq := s.cseq + 1, fatal := (s.complete res).fatal } := by
  cases res with
  | ok t => exact absurd rfl h
  | raise e => rfl
  | fatal c => rfl

/-- A completion that reports `OK` committed the writes, unless the command raised `OK` itself. -/
theorem State.complete_status_ok {s : State} {res : Result} (h : (s.complete res).status = .ok) :
    (∃ t, res = .ok t) ∨ res = .raise .ok := by
  cases res with
  | ok t => exact .inl ⟨t, rfl⟩
  | raise e => exact .inr (congrArg Result.raise h)
  | fatal c => cases c <;> simp [FatalCause.code] at h

/-! ## What a step can do -/

/-- With no parse in progress a step is idle or issues the next word. -/
theorem step_of_no_parse {s : State} (h : s.cursor.len ≤ s.cursor.off) : step s = stepCommand s :=
  if_neg (Nat.not_lt.mpr h)

/-- With a parse in progress a step reads the sub-header at the cursor. -/
theorem step_of_parse {s : State} (h : s.cursor.off < s.cursor.len) : step s = stepSubHeader s := if_pos h

/-- The entry of a command word: turned away by the lock, illegal, or the instruction it decodes to. -/
theorem entry_cases (w : CmdWord) (s : State) :
    (s.fatal.isSome ∧ w ≠ resetWord ∧ entry w s = .next (s.complete (.raise .locked)))
      ∨ (¬(s.fatal.isSome ∧ w ≠ resetWord) ∧ (∃ e, decode w = .error e)
          ∧ entry w s = .next (s.complete (.raise .illegalCmd)))
      ∨ (¬(s.fatal.isSome ∧ w ≠ resetWord) ∧ ∃ i, decode w = .ok i ∧ entry w s = exec i s) := by
  unfold entry
  by_cases h : s.fatal.isSome ∧ w ≠ resetWord
  · exact .inl ⟨h.1, h.2, if_pos h⟩
  · simp only [if_neg h]
    cases decode w with
    | error e => exact .inr (.inl ⟨h, ⟨e, rfl⟩, rfl⟩)
    | ok i => exact .inr (.inr ⟨h, i, rfl, rfl⟩)

/-! ## Decoding -/

@[simp] theorem opField_packWord (op a : BitVec 8) (b : BitVec 16) (c : Word) : opField (packWord op a b c) = op := by
  simp only [opField, packWord, BitVec.extractLsb'_append_eq_ite]; simp

@[simp] theorem aField_packWord (op a : BitVec 8) (b : BitVec 16) (c : Word) : aField (packWord op a b c) = a := by
  simp only [aField, packWord, BitVec.extractLsb'_append_eq_ite]; simp

@[simp] theorem bField_packWord (op a : BitVec 8) (b : BitVec 16) (c : Word) : bField (packWord op a b c) = b := by
  simp only [bField, packWord, BitVec.extractLsb'_append_eq_ite]; simp

@[simp] theorem cField_packWord (op a : BitVec 8) (b : BitVec 16) (c : Word) : cField (packWord op a b c) = c := by
  simp only [cField, packWord, BitVec.extractLsb'_append_eq_ite]; simp

/-! ## Memory -/

/-- Every definite value fits the width of its space. -/
theorem State.peek_lt {s : State} {sp : Space} {a v : Nat} (h : s.peek sp a = some v) : v < 2 ^ sp.width := by
  cases sp <;> simp only [State.peek, Option.map_eq_some_iff, Option.some.injEq] at h <;>
    first
      | (obtain ⟨x, -, rfl⟩ := h; exact x.isLt)
      | (subst h; simp only [Space.width]; exact Bool.toNat_lt _)

/-- A read gives a value of the element's width, in every pass. -/
theorem State.readPass_lt (s : State) (pass : Nat) (sp : Space) (a : Nat) : s.readPass pass sp a < 2 ^ sp.width := by
  unfold State.readPass
  cases h : s.peek sp a with
  | none => exact Nat.mod_lt _ (Nat.two_pow_pos _)
  | some v => exact State.peek_lt h

/-- A read of an element with a definite value gives it, in every pass. -/
theorem State.readPass_of_peek {s : State} {pass : Nat} {sp : Space} {a v : Nat} (h : s.peek sp a = some v) :
    s.readPass pass sp a = v := by
  simp [State.readPass, h]

/-- An appended sub-PDU keeps the canonical form of memory. -/
theorem State.putSubPdu_wf (s : State) (lcid : BitVec 6) (f : Bool) (hlen slen : Nat) (pay : List Byte)
    (h : s.mem.wf = true) : (s.putSubPdu lcid f hlen slen pay).mem.wf = true := by
  simp only [Memory.wf, Bool.and_eq_true, State.putSubPdu] at h ⊢
  simp_all [Bank.wf_setFrom]

/-- New position lists keep the canonical form of memory. -/
theorem Memory.putPositions_wf (m : Memory) (p : MuxLists) (h : m.wf = true) : (m.putPositions p).wf = true := by
  simp only [Memory.wf, Bool.and_eq_true, Memory.putPositions] at h ⊢
  simp_all [Bank.wf_ofList]

/-! ## The serializer -/

/-- Everything `append` can do: two refusals, in order, or the appended sub-PDU with its three results. -/
theorem State.append_cases (s : State) (lcid : BitVec 6) (f : Bool) (hlen slen : Nat) (pay : List Byte) :
    (s.mac.sp.length = s.params.spCap ∧ s.append lcid f hlen slen pay = .raise .tableFull)
      ∨ (s.mac.sp.length ≠ s.params.spCap ∧ s.mac.remain.toNat < hlen + slen
          ∧ s.append lcid f hlen slen pay = .raise .noSpace)
      ∨ (s.mac.sp.length ≠ s.params.spCap ∧ hlen + slen ≤ s.mac.remain.toNat
          ∧ s.append lcid f hlen slen pay = .ok { s.putSubPdu lcid f hlen slen pay with
              r := { s.r with
                r0 := word (hlen + slen)
                r1 := word slen
                r2 := word (s.mac.remain.toNat - (hlen + slen)) } }) := by
  unfold State.append
  by_cases h1 : s.mac.sp.length = s.params.spCap
  · exact .inl ⟨h1, require_of_not (not_not.mpr h1)⟩
  · by_cases h2 : hlen + slen ≤ s.mac.remain.toNat
    · exact .inr (.inr ⟨h1, h2, by simp [h1, h2]⟩)
    · exact .inr (.inl ⟨h1, by omega, by simp [h1, h2]⟩)

/-! ## The deserializer -/

/-- The fields of a sub-header's first byte by its number: bit 6 and the low six bits. -/
theorem byte_fields (b : Nat) :
    (byte b).getLsbD 6 = decide (b / 64 % 2 = 1) ∧ (byte b).extractLsb' 0 6 = BitVec.ofNat 6 (b % 64)
      ∧ ((byte b).extractLsb' 0 6).toNat = b % 64 := by
  have h : (byte b).extractLsb' 0 6 = BitVec.ofNat 6 (b % 64) := by
    apply BitVec.eq_of_toNat_eq
    simp [BitVec.extractLsb'_toNat]
  refine ⟨?_, h, by rw [h]; simp⟩
  rw [BitVec.getLsbD_ofNat, Nat.testBit_eq_decide_div_mod_eq]
  simp

/-- The sub-header the parser meets at the cursor, said once: its fields by the numbers of its bytes, the length if it has one that is
not cut off. -/
theorem State.fetchSubHeader_eq (s : State) (c : Cursor) :
    (s.fetchSubHeader c).toOption.bind subHeaderOf = some
      { f := decide (s.read .tb c.off / 64 % 2 = 1)
        lcid := BitVec.ofNat 6 (s.read .tb c.off % 64)
        len :=
          if hasLength (s.read .tb c.off % 64) s.mac.dir
              ∧ c.off + 1 + (if s.read .tb c.off / 64 % 2 = 1 then 2 else 1) ≤ c.len then
            some (if s.read .tb c.off / 64 % 2 = 1 then 256 * s.read .tb (c.off + 1) + s.read .tb (c.off + 2)
              else s.read .tb (c.off + 1))
          else none } := by
  have hlt : ∀ a, s.read .tb a < 256 := fun a => s.readPass_lt 0 .tb a
  obtain ⟨h1, h2, h3⟩ := byte_fields (s.read .tb c.off)
  have n0 := hlt (c.off + 1)
  have n1 := hlt (c.off + 2)
  have e0 : (byte (s.read .tb (c.off + 1))).toNat = s.read .tb (c.off + 1) := by simp; omega
  have e1 : (byte (s.read .tb (c.off + 1)) ++ byte (s.read .tb (c.off + 2))).toNat
      = 256 * s.read .tb (c.off + 1) + s.read .tb (c.off + 2) := by
    rw [BitVec.toNat_append, e0, ← Nat.shiftLeft_add_eq_or_of_lt (by simpa using Nat.mod_lt _ (by omega))]
    simp only [Nat.shiftLeft_eq, BitVec.toNat_ofNat]; omega
  unfold State.fetchSubHeader State.subHeaderBytes
  simp only [h1, h3, Bool.and_eq_true, decide_eq_true_eq]
  by_cases hf : s.read .tb c.off / 64 % 2 = 1 <;> simp only [hf, if_true, if_false] <;> split
  · show (decodeSubHeader [byte _, byte _, byte _]).toOption.bind subHeaderOf = _
    simp only [decodeSubHeader, h1, h2, hf, decide_true, if_true, Except.toOption, Option.bind, subHeaderOf, e1]
  · simp only [decodeSubHeader, h1, h2, hf, decide_true, Except.toOption, Option.bind, subHeaderOf]
  · show (decodeSubHeader [byte _, byte _]).toOption.bind subHeaderOf = _
    simp only [decodeSubHeader, h1, h2, hf, decide_false, Bool.false_eq_true, if_false, Except.toOption, Option.bind, subHeaderOf, e0]
  · simp only [decodeSubHeader, h1, h2, hf, decide_false, Except.toOption, Option.bind, subHeaderOf]

/-- A sub-PDU's header is one, two or three bytes long. -/
theorem subPduSize_hlen {dir : Dir} {off len hlen slen : Nat} {h : SubHeader}
    (hs : subPduSize dir off len h = .ok (hlen, slen)) : 1 ≤ hlen ∧ hlen ≤ 3 := by
  simp only [subPduSize] at hs
  split at hs
  · simp at hs
  · split at hs
    · split at hs
      · simp at hs
      · simp only [Except.ok.injEq, Prod.mk.injEq] at hs
        obtain ⟨rfl, -⟩ := hs
        split <;> omega
    · split at hs
      · simp only [Except.ok.injEq, Prod.mk.injEq] at hs; omega
      · split at hs
        · simp only [Except.ok.injEq, Prod.mk.injEq] at hs; omega
        · simp at hs

/-- One pass of the parse that succeeds: the sub-PDU has a size, lies in the block, has a free entry, and is added. -/
theorem parseOne_eq_ok {dir : Dir} {spCap : Nat} {c c' : Cursor} {h : SubHeader} :
    parseOne dir spCap c h = .ok c' ↔ ∃ hlen slen, subPduSize dir c.off c.len h = .ok (hlen, slen)
      ∧ c.off + hlen + slen ≤ c.len ∧ c.list.length ≠ spCap
      ∧ c' = ⟨c.off + hlen + slen, c.len, c.list ++ [mkDesc h.lcid h.f hlen slen (c.off + hlen)]⟩ := by
  unfold parseOne
  cases hs : subPduSize dir c.off c.len h with
  | error e => simp
  | ok p =>
    obtain ⟨hlen, slen⟩ := p
    simp only [Except.ok.injEq, Prod.mk.injEq]
    constructor
    · intro hc
      split at hc
      · simp at hc
      · split at hc
        · simp at hc
        · rename_i h1 h2
          exact ⟨hlen, slen, ⟨rfl, rfl⟩, by omega, h2, (Except.ok.inj hc).symm⟩
    · rintro ⟨x, y, ⟨rfl, rfl⟩, h1, h2, rfl⟩
      rw [if_neg (by omega), if_neg h2]

/-- One pass moves the offset up, within the block. -/
theorem parseOne_off {dir : Dir} {spCap : Nat} {c c' : Cursor} {h : SubHeader} (hp : parseOne dir spCap c h = .ok c') :
    c.off < c'.off ∧ c'.off ≤ c.len ∧ c'.len = c.len := by
  obtain ⟨hlen, slen, hs, h1, -, rfl⟩ := parseOne_eq_ok.mp hp
  have := subPduSize_hlen hs
  exact ⟨by simp; omega, h1, rfl⟩

/-- The loop that succeeds with enough passes ends at the end of the block and only adds to the list. -/
theorem State.parseLoop_ok {s : State} {fuel : Nat} {c c' : Cursor} (hf : c.len - c.off ≤ fuel) (ho : c.off ≤ c.len)
    (h : s.parseLoop fuel c = .ok c') : c'.off = c.len ∧ c'.len = c.len ∧ c.list <+: c'.list := by
  induction fuel generalizing c with
  | zero =>
    obtain rfl := Except.ok.inj h
    exact ⟨by omega, rfl, List.prefix_refl _⟩
  | succ fuel ih =>
    unfold State.parseLoop at h
    split at h
    · split at h
      · simp at h
      · split at h
        · simp at h
        · rename_i h1 hd _ c1 hp
          have hoff := parseOne_off hp
          obtain ⟨a, b, hl⟩ := ih (c := c1) (by omega) (by omega) h
          obtain ⟨_, _, -, -, -, rfl⟩ := parseOne_eq_ok.mp hp
          exact ⟨a.trans hoff.2.2, b.trans hoff.2.2, (List.prefix_append _ _).trans hl⟩
    · obtain rfl := Except.ok.inj h
      exact ⟨by omega, rfl, List.prefix_refl _⟩

/-! ## Bitmaps -/

/-- Setting bits sets exactly the listed ones that the bitmap has. -/
@[simp] theorem getLsbD_setBits {w : Nat} (bm : BitVec w) (ps : List Nat) (i : Nat) :
    (setBits bm ps).getLsbD i = (bm.getLsbD i || (decide (i < w) && decide (i ∈ ps))) := by
  unfold setBits
  induction ps generalizing bm with
  | nil => simp
  | cons p ps ih =>
    simp only [List.foldl_cons, ih, BitVec.getLsbD_or, BitVec.getLsbD_twoPow, List.mem_cons, Bool.decide_or, Bool.or_assoc]
    by_cases h : i = p
    · subst h; cases decide (i < w) <;> simp
    · simp [h, Ne.symm h]

/-- The PRBs of an RBG are those from its lower to its upper bound. -/
@[simp] theorem mem_rbgPrbs {n p first g i : Nat} :
    i ∈ rbgPrbs n p first g ↔ rbgLo n p first g ≤ i ∧ i < rbgHi n p first g := by
  simp only [rbgPrbs, List.mem_range'_1]; omega

/-- The RBGs of a mask are the flagged ones of the BWP. -/
@[simp] theorem Rb.mem_maskRbgs {rb : Rb} {mask : BitVec 19} {g : Nat} :
    g ∈ rb.maskRbgs mask ↔ g < rb.nrbg.toNat ∧ mask.getLsbD g = true := by
  simp [Rb.maskRbgs]

/-- The nominal RBG size is 2, 4, 8 or 16. -/
theorem rbgP_mem (n : Nat) (cfg : RbgConfig) : rbgP n cfg ∈ [2, 4, 8, 16] := by
  unfold rbgP
  split <;> (repeat' split) <;> simp

end Sys2Proof.Machine
end

