-- ==== Sys2Proof/Laws/PerInstr.lean ====
section
/-! SUPPORT. Statements about every instruction as syntax, one lemma per constructor. -/

namespace Sys2Proof.Laws.EncodesItsOpcode

open Sys2Proof.Machine

/-- The `op` value of a command (30_encoding.md R104); a sub-header has none. -/
def opcode : Instr → Option (BitVec 8)
  | .sysNop => some 0x00
  | .sysReset => some 0x01
  | .csrWr .. => some 0x02
  | .memWr .. => some 0x03
  | .memRd .. => some 0x04
  | .macInitTx .. => some 0x10
  | .macInitRx .. => some 0x11
  | .macAddSdu .. => some 0x12
  | .macAddCrntiCe .. => some 0x13
  | .macAddSePhrCe .. => some 0x14
  | .macAddSbsrCe .. => some 0x15
  | .macAddConresCe .. => some 0x16
  | .macPack => some 0x17
  | .macUnpack .. => some 0x18
  | .macGetSubpdu .. => some 0x19
  | .macGetLbsr .. => some 0x1A
  | .macRelease => some 0x1B
  | .macChkLcid .. => some 0x1C
  | .rbInit .. => some 0x20
  | .rbClear => some 0x21
  | .rbAddInterval .. => some 0x22
  | .rbAddRbgs .. => some 0x23
  | .rbAddGrant => some 0x24
  | .rbCollides => some 0x25
  | .rbFindNext .. => some 0x26
  | .rbFindLen .. => some 0x27
  | .rbGrantSetInterval .. => some 0x28
  | .rbGrantSetRbgs .. => some 0x29
  | .rbGrantType => some 0x2A
  | .rbGrantGetPrbs => some 0x2B
  | .rbGrantGetRbgs => some 0x2C
  | .rbGrantEncode => some 0x2D
  | .rbGrantDecode .. => some 0x2E
  | .rbPrb2Rbg .. => some 0x2F
  | .uciGenMux => some 0x30
  | .uciMux => some 0x31
  | .uciScramble => some 0x32
  | .uciDemux => some 0x33
  | .subhdr1B .. => none
  | .subhdr2B .. => none
  | .subhdr3B .. => none

/-- A command's encoding is a word with its `op` in bits 63:56 (R100, R104); a sub-header's is one to three bytes on the wire (R110,
R111). -/
def Statement (i : Instr) : Prop :=
  match encode i with
  | .command w => opcode i = some (opField w) ∧ i.isSubHeader = false
  | .wire bytes => opcode i = none ∧ i.isSubHeader = true ∧ 1 ≤ bytes.length ∧ bytes.length ≤ 3

theorem sysNop : Statement .sysNop :=
  ⟨congrArg some (opField_packWord _ _ _ _).symm, rfl⟩
theorem sysReset : Statement .sysReset :=
  ⟨congrArg some (opField_packWord _ _ _ _).symm, rfl⟩
theorem csrWr (csr : BitVec 8) (value : Word) : Statement (.csrWr csr value) :=
  ⟨congrArg some (opField_packWord _ _ _ _).symm, rfl⟩
theorem memWr (space : BitVec 8) (data : BitVec 16) (addr : Word) : Statement (.memWr space data addr) :=
  ⟨congrArg some (opField_packWord _ _ _ _).symm, rfl⟩
theorem memRd (space : BitVec 8) (addr : Word) : Statement (.memRd space addr) :=
  ⟨congrArg some (opField_packWord _ _ _ _).symm, rfl⟩
theorem macInitTx (dir : Dir) (tbLen : Word) : Statement (.macInitTx dir tbLen) :=
  ⟨congrArg some (opField_packWord _ _ _ _).symm, rfl⟩
theorem macInitRx (dir : Dir) : Statement (.macInitRx dir) :=
  ⟨congrArg some (opField_packWord _ _ _ _).symm, rfl⟩
theorem macAddSdu (lcid : BitVec 6) (len : BitVec 16) (addr : Word) : Statement (.macAddSdu lcid len addr) :=
  ⟨congrArg some (opField_packWord _ _ _ _).symm, rfl⟩
theorem macAddCrntiCe (rnti : BitVec 16) : Statement (.macAddCrntiCe rnti) :=
  ⟨congrArg some (opField_packWord _ _ _ _).symm, rfl⟩
theorem macAddSePhrCe (phr : BitVec 6) (pcmax : BitVec 6) : Statement (.macAddSePhrCe phr pcmax) :=
  ⟨congrArg some (opField_packWord _ _ _ _).symm, rfl⟩
theorem macAddSbsrCe (lcg : BitVec 3) (bs : BitVec 5) : Statement (.macAddSbsrCe lcg bs) :=
  ⟨congrArg some (opField_packWord _ _ _ _).symm, rfl⟩
theorem macAddConresCe (id : BitVec 48) : Statement (.macAddConresCe id) :=
  ⟨congrArg some (opField_packWord _ _ _ _).symm, rfl⟩
theorem macPack : Statement .macPack :=
  ⟨congrArg some (opField_packWord _ _ _ _).symm, rfl⟩
theorem macUnpack (len : Word) : Statement (.macUnpack len) :=
  ⟨congrArg some (opField_packWord _ _ _ _).symm, rfl⟩
theorem macGetSubpdu (index : Word) : Statement (.macGetSubpdu index) :=
  ⟨congrArg some (opField_packWord _ _ _ _).symm, rfl⟩
theorem macGetLbsr (index : Word) : Statement (.macGetLbsr index) :=
  ⟨congrArg some (opField_packWord _ _ _ _).symm, rfl⟩
theorem macRelease : Statement .macRelease :=
  ⟨congrArg some (opField_packWord _ _ _ _).symm, rfl⟩
theorem macChkLcid (lcid : BitVec 6) (dir : Dir) : Statement (.macChkLcid lcid dir) :=
  ⟨congrArg some (opField_packWord _ _ _ _).symm, rfl⟩
theorem rbInit (cfg : RbgConfig) (start : BitVec 16) (n : Word) : Statement (.rbInit cfg start n) :=
  ⟨congrArg some (opField_packWord _ _ _ _).symm, rfl⟩
theorem rbClear : Statement .rbClear :=
  ⟨congrArg some (opField_packWord _ _ _ _).symm, rfl⟩
theorem rbAddInterval (start : BitVec 16) (stop : Word) : Statement (.rbAddInterval start stop) :=
  ⟨congrArg some (opField_packWord _ _ _ _).symm, rfl⟩
theorem rbAddRbgs (mask : BitVec 19) : Statement (.rbAddRbgs mask) :=
  ⟨congrArg some (opField_packWord _ _ _ _).symm, rfl⟩
theorem rbAddGrant : Statement .rbAddGrant :=
  ⟨congrArg some (opField_packWord _ _ _ _).symm, rfl⟩
theorem rbCollides : Statement .rbCollides :=
  ⟨congrArg some (opField_packWord _ _ _ _).symm, rfl⟩
theorem rbFindNext (startIdx : BitVec 16) (lastIdx : Word) : Statement (.rbFindNext startIdx lastIdx) :=
  ⟨congrArg some (opField_packWord _ _ _ _).symm, rfl⟩
theorem rbFindLen (startIdx : BitVec 16) (nofPrbs : Word) : Statement (.rbFindLen startIdx nofPrbs) :=
  ⟨congrArg some (opField_packWord _ _ _ _).symm, rfl⟩
theorem rbGrantSetInterval (start : BitVec 16) (stop : Word) : Statement (.rbGrantSetInterval start stop) :=
  ⟨congrArg some (opField_packWord _ _ _ _).symm, rfl⟩
theorem rbGrantSetRbgs (mask : BitVec 19) : Statement (.rbGrantSetRbgs mask) :=
  ⟨congrArg some (opField_packWord _ _ _ _).symm, rfl⟩
theorem rbGrantType : Statement .rbGrantType :=
  ⟨congrArg some (opField_packWord _ _ _ _).symm, rfl⟩
theorem rbGrantGetPrbs : Statement .rbGrantGetPrbs :=
  ⟨congrArg some (opField_packWord _ _ _ _).symm, rfl⟩
theorem rbGrantGetRbgs : Statement .rbGrantGetRbgs :=
  ⟨congrArg some (opField_packWord _ _ _ _).symm, rfl⟩
theorem rbGrantEncode : Statement .rbGrantEncode :=
  ⟨congrArg some (opField_packWord _ _ _ _).symm, rfl⟩
theorem rbGrantDecode (type : AllocType) (field : Word) : Statement (.rbGrantDecode type field) :=
  ⟨congrArg some (opField_packWord _ _ _ _).symm, rfl⟩
theorem rbPrb2Rbg (prb : Word) : Statement (.rbPrb2Rbg prb) :=
  ⟨congrArg some (opField_packWord _ _ _ _).symm, rfl⟩
theorem uciGenMux : Statement .uciGenMux :=
  ⟨congrArg some (opField_packWord _ _ _ _).symm, rfl⟩
theorem uciMux : Statement .uciMux :=
  ⟨congrArg some (opField_packWord _ _ _ _).symm, rfl⟩
theorem uciScramble : Statement .uciScramble :=
  ⟨congrArg some (opField_packWord _ _ _ _).symm, rfl⟩
theorem uciDemux : Statement .uciDemux :=
  ⟨congrArg some (opField_packWord _ _ _ _).symm, rfl⟩
theorem subhdr1B (r f : Bool) (lcid : BitVec 6) : Statement (.subhdr1B r f lcid) :=
  ⟨rfl, rfl, (by decide : 1 ≤ 1), (by decide : 1 ≤ 3)⟩
theorem subhdr2B (r : Bool) (lcid : BitVec 6) (len : BitVec 8) : Statement (.subhdr2B r lcid len) :=
  ⟨rfl, rfl, (by decide : 1 ≤ 2), (by decide : 2 ≤ 3)⟩
theorem subhdr3B (r : Bool) (lcid : BitVec 6) (len : BitVec 16) : Statement (.subhdr3B r lcid len) :=
  ⟨rfl, rfl, (by decide : 1 ≤ 3), (by decide : 3 ≤ 3)⟩

end Sys2Proof.Laws.EncodesItsOpcode
end

