-- ==== Sys2Proof/Tests/Slice0.lean ====
section
/-! SUPPORT. The author's own tests. Expected values come from the spec: words from the tables of 30_encoding.md R104, R111, results
from the tables of 95_test_vectors.md (the part is named at each group) or by hand from the rule named. -/

open Sys2Proof Sys2Proof.Machine Sys2Proof.Safety

namespace Sys2Proof.Tests

set_option exponentiation.threshold 300

/-! ## Small states -/

/-- The reset state with the capacities 95_test_vectors.md uses. -/
def box : State := { State.reset with params := ⟨512, 512, 8, 256⟩ }

/-- A block in `TB`. -/
def withTb (s : State) (bytes : List Byte) : State := { s with mem := { s.mem with tb := Bank.ofList bytes } }

/-- A receive session with a block in `TB`. -/
def rxBox (dir : Dir) (bytes : List Byte) : State := { withTb box bytes with mac := ⟨.rx, dir, 0, 0, 0, []⟩ }

/-- A transmit session. -/
def txBox (dir : Dir) (tbLen : Word) : State := { box with mac := ⟨.tx, dir, tbLen, tbLen, 0, []⟩ }

/-- An initialised bandwidth part. -/
def bwpBox (cfg : RbgConfig) (start n : Nat) : State := { box with rb := Rb.reset.init cfg start n }

/-- The next state of an outcome. -/
def nextOf (o : Host.Outcome State Fault Refusal) : State :=
  match o with
  | .next t => t
  | .fault _ => State.reset
  | .refused _ => State.reset

/-- What a command reports: the status code and the result registers. -/
def report (o : Host.Outcome State Fault Refusal) : Code × Regs := ((nextOf o).status, (nextOf o).r)

/-- The state after some commands. -/
def after (s : State) : List Instr → State
  | [] => s
  | i :: is => after (nextOf (exec i s)) is

/-- The definite values of consecutive elements. -/
def elems (s : State) (sp : Space) (n : Nat) : List (Option Nat) := (List.range n).map (s.peek sp)

/-- Six bytes in `PL`. -/
def payloadMemory : Memory := { Memory.reset with pl := Bank.ofList [0xA1, 0xA2, 0xA3, 0xA4, 0xA5, 0xA6] }

/-- Configuration U1 of 95_test_vectors.md 2.6, the example of 45_uci_mux.md R283. -/
def u1 : State :=
  { box with uci := { Uci.reset with
      l1 := 2, l1csi := 2, nl := 1, qm := 2, oack := 1, gack := 4, gackrvd := 8, gcsi1 := 6, gcsi2 := 2, gulsch := 20,
      nofre := 16, msc := #v[4, 0, 6, 6, 0, 0, 0, 0, 0, 0, 0, 0, 0, 0], muci := #v[0, 0, 6, 6, 0, 0, 0, 0, 0, 0, 0, 0, 0, 0] } }

/-- One symbol of four resource elements, one for each category, one bit each. -/
def four : State :=
  { box with
    uci := { Uci.reset with
      nl := 1, qm := 1, oack := 1, gack := 1, gackrvd := 1, gcsi1 := 1, gcsi2 := 1, gulsch := 1, nofre := 4,
      msc := #v[4, 0, 0, 0, 0, 0, 0, 0, 0, 0, 0, 0, 0, 0], muci := #v[4, 0, 0, 0, 0, 0, 0, 0, 0, 0, 0, 0, 0, 0] }
    mem := { Memory.reset with
      bAck := Bank.ofList [2], bCsi1 := Bank.ofList [1], bCsi2 := Bank.ofList [0], bUlsch := Bank.ofList [1],
      scr := Bank.ofList [1, 1, 1, 0], lin := Bank.ofList [10, 11, 12, 13] } }

/-! ## Well-formedness: an ill-formed term for each check -/

theorem test_wf_refuses_1B_with_length_lcid : (Instr.subhdr1B false false 1).wellFormed = false := by decide
theorem test_wf_refuses_1B_with_length_lcid_top : (Instr.subhdr1B true true 32).wellFormed = false := by decide
theorem test_wf_refuses_2B_with_padding : (Instr.subhdr2B false 63 0).wellFormed = false := by decide
theorem test_wf_refuses_2B_with_reserved_lcid : (Instr.subhdr2B false 33 0).wellFormed = false := by decide
theorem test_wf_refuses_3B_with_fixed_ce : (Instr.subhdr3B false 61 0).wellFormed = false := by decide
theorem test_wf_accepts_lcid0_both_ways :
    (Instr.subhdr1B false false 0).wellFormed = true ∧ (Instr.subhdr2B false 0 1).wellFormed = true := by decide

/-! ## Decoding: one word of every row, written out from R104 and R111 -/

theorem test_decode_sysNop : decode 0x0000000000000000#64 = .ok .sysNop := by decide
theorem test_decode_sysReset : decode 0x0100000000000000#64 = .ok .sysReset := by decide
theorem test_decode_csrWr : decode 0x0230000080000001#64 = .ok (.csrWr 0x30#8 0x80000001#32) := by decide
theorem test_decode_memWr : decode 0x0304FFFF0000000D#64 = .ok (.memWr 4#8 0xFFFF#16 13#32) := by decide
theorem test_decode_memRd : decode 0x0414000000000112#64 = .ok (.memRd 20#8 274#32) := by decide
theorem test_decode_macInitTx : decode 0x1001000000000010#64 = .ok (.macInitTx .ul 16#32) := by decide
theorem test_decode_macInitRx : decode 0x1101000000000000#64 = .ok (.macInitRx .ul) := by decide
theorem test_decode_macAddSdu : decode 0x1234006300000100#64 = .ok (.macAddSdu 52#6 99#16 256#32) := by decide
theorem test_decode_macAddCrntiCe : decode 0x130000000000ABCD#64 = .ok (.macAddCrntiCe 0xABCD#16) := by decide
theorem test_decode_macAddSePhrCe : decode 0x1401003F00000000#64 = .ok (.macAddSePhrCe 1#6 63#6) := by decide
theorem test_decode_macAddSbsrCe : decode 0x1505001A00000000#64 = .ok (.macAddSbsrCe 5#3 26#5) := by decide
theorem test_decode_macAddConresCe : decode 0x1600FFEEDDCCBBAA#64 = .ok (.macAddConresCe 0xFFEEDDCCBBAA#48) := by decide
theorem test_decode_macPack : decode 0x1700000000000000#64 = .ok .macPack := by decide
theorem test_decode_macUnpack : decode 0x1800000000000104#64 = .ok (.macUnpack 260#32) := by decide
theorem test_decode_macGetSubpdu : decode 0x1900000080000002#64 = .ok (.macGetSubpdu 0x80000002#32) := by decide
theorem test_decode_macGetLbsr : decode 0x1A00000000000003#64 = .ok (.macGetLbsr 3#32) := by decide
theorem test_decode_macRelease : decode 0x1B00000000000000#64 = .ok .macRelease := by decide
theorem test_decode_macChkLcid : decode 0x1C2E000100000000#64 = .ok (.macChkLcid 46#6 .ul) := by decide
theorem test_decode_rbInit : decode 0x2001000F00000104#64 = .ok (.rbInit .config2 15#16 260#32) := by decide
theorem test_decode_rbClear : decode 0x2100000000000000#64 = .ok .rbClear := by decide
theorem test_decode_rbAddInterval : decode 0x2200001400000019#64 = .ok (.rbAddInterval 20#16 25#32) := by decide
theorem test_decode_rbAddRbgs : decode 0x2300000000041000#64 = .ok (.rbAddRbgs 0x41000#19) := by decide
theorem test_decode_rbAddGrant : decode 0x2400000000000000#64 = .ok .rbAddGrant := by decide
theorem test_decode_rbCollides : decode 0x2500000000000000#64 = .ok .rbCollides := by decide
theorem test_decode_rbFindNext : decode 0x26000017FFFFFFFF#64 = .ok (.rbFindNext 23#16 0xFFFFFFFF#32) := by decide
theorem test_decode_rbFindLen : decode 0x2700000600000003#64 = .ok (.rbFindLen 6#16 3#32) := by decide
theorem test_decode_rbGrantSetInterval : decode 0x280000050000000F#64 = .ok (.rbGrantSetInterval 5#16 15#32) := by decide
theorem test_decode_rbGrantSetRbgs : decode 0x2900000000040A05#64 = .ok (.rbGrantSetRbgs 0x40A05#19) := by decide
theorem test_decode_rbGrantType : decode 0x2A00000000000000#64 = .ok .rbGrantType := by decide
theorem test_decode_rbGrantGetPrbs : decode 0x2B00000000000000#64 = .ok .rbGrantGetPrbs := by decide
theorem test_decode_rbGrantGetRbgs : decode 0x2C00000000000000#64 = .ok .rbGrantGetRbgs := by decide
theorem test_decode_rbGrantEncode : decode 0x2D00000000000000#64 = .ok .rbGrantEncode := by decide
theorem test_decode_rbGrantDecode : decode 0x2E01000000000561#64 = .ok (.rbGrantDecode .type1 1377#32) := by decide
theorem test_decode_rbPrb2Rbg : decode 0x2F00000000000016#64 = .ok (.rbPrb2Rbg 22#32) := by decide
theorem test_decode_uciGenMux : decode 0x3000000000000000#64 = .ok .uciGenMux := by decide
theorem test_decode_uciMux : decode 0x3100000000000000#64 = .ok .uciMux := by decide
theorem test_decode_uciScramble : decode 0x3200000000000000#64 = .ok .uciScramble := by decide
theorem test_decode_uciDemux : decode 0x3300000000000000#64 = .ok .uciDemux := by decide
theorem test_decode_subhdr1B : decodeSubHeader [0b0_1_111010#8] = .ok (.subhdr1B false true 58#6) := by decide
theorem test_decode_subhdr2B : decodeSubHeader [0b1_0_000100#8, 0x81#8] = .ok (.subhdr2B true 4#6 0x81#8) := by decide
theorem test_decode_subhdr3B :
    decodeSubHeader [0b0_1_100000#8, 0x01#8, 0x02#8] = .ok (.subhdr3B false 32#6 0x102#16) := by decide

/-- Reserved operations and non-zero unused bits (95_test_vectors.md 2.1, 2.2, 2.4, 2.5). -/
theorem test_decode_refuses : decode 0x0000000000000001#64 = .error .reservedBits
    ∧ decode 0x1D00000000000000#64 = .error .unknownOp ∧ decode 0x3400000000000000#64 = .error .unknownOp
    ∧ decode 0x1002000000000010#64 = .error .reservedBits ∧ decode 0x1240000100000000#64 = .error .reservedBits
    ∧ decode 0x1300000000010000#64 = .error .reservedBits ∧ decode 0x1500002000000000#64 = .error .reservedBits
    ∧ decode 0x1C01000200000000#64 = .error .reservedBits ∧ decode 0x2300000000080000#64 = .error .reservedBits
    ∧ decodeSubHeader [0x44#8, 0x01#8] = .error .notASubHeader := by decide

/-- The table's numbering: a command by its 64 bits, a sub-header by its bytes with the first one highest. -/
theorem test_decodeTableWord : decodeTableWord 64 0x1204000300000000 = some (.macAddSdu 4 3 0)
    ∧ decodeTableWord 8 0x34 = some (.subhdr1B false false 52) ∧ decodeTableWord 16 0x0401 = some (.subhdr2B false 4 1)
    ∧ decodeTableWord 24 0x410100 = some (.subhdr3B false 1 256) ∧ decodeTableWord 16 0x4401 = none := by decide

/-- A command placed for the next step is the one the step runs. -/
theorem test_fetch_command : report (step (box.withFetchWord 64 0x2A00000000000000)) = (.ok, ⟨1, 0, 0, 0⟩) := by decide

/-- A sub-header placed for the next step is the one the step parses: a three-byte header and its 256 bytes. -/
theorem test_fetch_subHeader :
    (nextOf (step (box.withFetchWord 24 0x410100))).mac.sp = [⟨1, true, 3, 256, 3⟩]
      ∧ report (step (box.withFetchWord 24 0x410100)) = (.ok, ⟨1, 259, 0, 0⟩) := by decide

/-! ## One step of every instruction -/

/-! 95_test_vectors.md 2.1 and 2.7. -/

theorem test_nop : report (exec .sysNop { box with status := .badIndex, r := ⟨1, 2, 3, 4⟩ }) = (.ok, ⟨1, 2, 3, 4⟩)
    ∧ (nextOf (exec .sysNop { box with cseq := 0xFFFFFFFF })).cseq = 0 := by decide
theorem test_reset_unlocks :
    (nextOf (exec .sysReset { bwpBox .config1 0 52 with fatal := some .variant, cseq := 7, status := .locked })).fatal = none
      ∧ (nextOf (exec .sysReset { bwpBox .config1 0 52 with cseq := 7 })).rb = Rb.reset
      ∧ (nextOf (exec .sysReset { box with cseq := 7 })).cseq = 0 := by decide
theorem test_csrWr : (nextOf (exec (.csrWr 0x33 0xFFFFFFFF) u1)).uci.qm = 0xFFFFFFFF
    ∧ (nextOf (exec (.csrWr 0x33 2) { u1 with uci := { u1.uci with valid := true, gtot := 32 } })).uci.valid = false := by decide
theorem test_csrWr_refuses : (report (exec (.csrWr 0x05 1) box)).1 = .badIndex
    ∧ (report (exec (.csrWr 0x01 1) box)).1 = .badOperand ∧ (report (exec (.csrWr 0x3B 1) box)).1 = .badOperand := by decide
theorem test_memWr : (nextOf (exec (.memWr 6 3 0) box)).peek .bAck 0 = some 3
    ∧ (nextOf (exec (.memWr 4 0xFFFF 13) box)).peek .msc 13 = some 0xFFFF := by decide
theorem test_memWr_refuses : (report (exec (.memWr 21 0 0) box)).1 = .badIndex
    ∧ (report (exec (.memWr 1 0 512) box)).1 = .badIndex ∧ (report (exec (.memWr 2 1 0) box)).1 = .badOperand
    ∧ (report (exec (.memWr 6 4 0) box)).1 = .badOperand
    ∧ (report (exec (.memWr 0 0 0) (txBox .ul 4))).1 = .badState := by decide
theorem test_memRd : report (exec (.memRd 0 1) (rxBox .ul [0x3D, 0x51])) = (.ok, ⟨0x51, 0, 0, 0⟩)
    ∧ report (exec (.memRd 2 274) box) = (.ok, ⟨0, 0, 0, 0⟩) := by decide
theorem test_memRd_refuses : (report (exec (.memRd 2 275) box)).1 = .badIndex := by decide

/-! 95_test_vectors.md 1.1, 2.5 and P1. -/

theorem test_initTx : (nextOf (exec (.macInitTx .ul 16) box)).mac = ⟨.tx, .ul, 16, 16, 0, []⟩
    ∧ (report (exec (.macInitTx .ul 513) box)).1 = .badOperand := by decide
theorem test_initRx : (nextOf (exec (.macInitRx .ul) (txBox .dl 4))).mac = ⟨.rx, .ul, 0, 0, 0, []⟩ := by decide
theorem test_addSdu_ulCcch :
    elems (nextOf (exec (.macAddSdu 52 99 0) { txBox .ul 8 with mem := payloadMemory })) .tb 7
      = [0x34, 0xA1, 0xA2, 0xA3, 0xA4, 0xA5, 0xA6].map some := by decide
theorem test_addSdu_refuses : (report (exec (.macAddSdu 33 0 0) (txBox .ul 4))).1 = .badOperand
    ∧ (report (exec (.macAddSdu 1 1 512) (txBox .ul 4))).1 = .badOperand
    ∧ report (exec (.macAddSdu 1 0 512) (txBox .ul 4)) = (.ok, ⟨2, 0, 2, 0⟩) := by decide
theorem test_addCrntiCe : elems (nextOf (exec (.macAddCrntiCe 0xABCD) (txBox .ul 16))) .tb 3 = [0x3A, 0xAB, 0xCD].map some
    ∧ report (exec (.macAddCrntiCe 0xABCD) (txBox .ul 16)) = (.ok, ⟨3, 2, 13, 0⟩) := by decide
theorem test_addSePhrCe : elems (nextOf (exec (.macAddSePhrCe 1 2) (txBox .ul 16))) .tb 3 = [0x39, 0x01, 0x02].map some := by
  decide
theorem test_addSbsrCe : elems (nextOf (exec (.macAddSbsrCe 5 10) (txBox .ul 16))) .tb 2 = [0x3D, 0xAA].map some := by decide
theorem test_addConresCe :
    elems (nextOf (exec (.macAddConresCe 0xFFEEDDCCBBAA) (txBox .dl 16))) .tb 7
      = [0x3E, 0xFF, 0xEE, 0xDD, 0xCC, 0xBB, 0xAA].map some := by decide
theorem test_addConresCe_refuses : (report (exec (.macAddConresCe 1) (txBox .ul 16))).1 = .wrongDir := by decide
theorem test_pack : report (exec .macPack (after (txBox .ul 3) [.macAddSbsrCe 1 1])) = (.ok, ⟨3, 1, 1, 0⟩)
    ∧ elems (nextOf (exec .macPack (after (txBox .ul 3) [.macAddSbsrCe 1 1]))) .tb 3 = [0x3D, 0x21, 0x3F].map some := by decide
theorem test_release : (nextOf (exec .macRelease (after (txBox .ul 3) [.macAddSbsrCe 1 1]))).mac = Mac.reset := by decide

/-! 95_test_vectors.md 2.4. -/

theorem test_chkLcid : report (exec (.macChkLcid 52 .ul) box) = (.ok, ⟨1, 2, 6, 0⟩)
    ∧ report (exec (.macChkLcid 47 .dl) box) = (.ok, ⟨1, 6, 0, 0⟩) := by decide
theorem test_unpack :
    (nextOf (exec (.macUnpack 12) (rxBox .dl [0x3C, 0x3D, 0x7F, 0x3E, 1, 2, 3, 4, 5, 6, 0x01, 0x00]))).mac
      = ⟨.rxDone, .dl, 12, 0, 0, [⟨60, false, 1, 0, 1⟩, ⟨61, false, 1, 1, 2⟩, ⟨62, false, 1, 6, 4⟩, ⟨1, false, 2, 0, 12⟩]⟩ := by
  decide
theorem test_unpack_refuses : (report (exec (.macUnpack 2) (rxBox .ul [0x44, 0x00]))).1 = .malformedPdu
    ∧ (report (exec (.macUnpack 2) (rxBox .dl [0x2F, 0x00]))).1 = .unsupportedLcid
    ∧ (report (exec (.macUnpack 3) (rxBox .ul [0x7A, 0x46, 0x01]))).2 = ⟨1, 3, 0, 0⟩ := by decide
theorem test_getSubpdu : report (exec (.macGetSubpdu 0) (after (rxBox .ul [0x44, 0, 2, 0x55, 0x66]) [.macUnpack 5]))
    = (.ok, ⟨0x30104, 2, 3, 5⟩) := by decide
theorem test_getLbsr_truncated : report (exec (.macGetLbsr 0) (after (rxBox .ul [0x3C, 2, 7, 5]) [.macUnpack 4]))
    = (.ok, ⟨0x60107, 0x3F3F05, 0, 0⟩) := by decide
theorem test_getLbsr_all_present :
    report (exec (.macGetLbsr 0) (after (rxBox .ul [0x3E, 9, 0xFF, 1, 2, 3, 4, 5, 6, 7, 8]) [.macUnpack 11]))
    = (.ok, ⟨0x8FF, 0x04030201, 0x08070605, 0⟩) := by decide
theorem test_subhdr1B : (nextOf (exec (.subhdr1B false true 58) { rxBox .ul [] with cursor := ⟨2, 9, []⟩ })).cursor
    = ⟨5, 9, [⟨58, true, 1, 2, 3⟩]⟩ := by decide
theorem test_subhdr2B : (nextOf (exec (.subhdr2B true 4 3) { rxBox .ul [] with cursor := ⟨0, 5, []⟩ })).mac
    = ⟨.rxDone, .ul, 5, 0, 0, [⟨4, false, 2, 3, 2⟩]⟩ := by decide
theorem test_subhdr3B : (report (exec (.subhdr3B false 1 256) { rxBox .dl [] with cursor := ⟨0, 258, []⟩ })).1
    = .malformedPdu := by decide

/-! 95_test_vectors.md 2.2. -/

theorem test_rbInit : (nextOf (exec (.rbInit .config1 3 72) box)).rb
    = ⟨72, 3, .config1, 4, 1, 19, 0, 0, .type1 0 0⟩ := by decide
theorem test_rbInit_refuses : (report (exec (.rbInit .config1 1 275) box)).1 = .badOperand
    ∧ (report (exec (.rbInit .config1 0 0) box)).1 = .badOperand := by decide
theorem test_rbClear : (report (exec .rbClear box)).1 = .badState
    ∧ (nextOf (exec .rbClear (after (bwpBox .config1 7 24) [.rbAddRbgs 1]))).rb.prbs = 0 := by decide
theorem test_rbAddInterval : (nextOf (exec (.rbAddInterval 2 4) (bwpBox .config1 7 24))).rb.prbs = 0b1100
    ∧ (nextOf (exec (.rbAddInterval 2 4) (bwpBox .config1 7 24))).rb.rbgs = 0b110 := by decide
theorem test_rbAddRbgs : (nextOf (exec (.rbAddRbgs 0x1004) (bwpBox .config1 7 24))).rb.prbs = 0x800018
    ∧ (report (exec (.rbAddRbgs 0x2000) (bwpBox .config1 7 24))).1 = .badOperand := by decide
theorem test_rbPrb2Rbg : report (exec (.rbPrb2Rbg 22) (bwpBox .config1 7 24)) = (.ok, ⟨11, 0, 0, 0⟩)
    ∧ (report (exec (.rbPrb2Rbg 24) (bwpBox .config1 7 24))).1 = .badOperand := by decide

/-- A bandwidth part of 24 PRBs with PRBs 0 to 4 and 8 to 19 taken. -/
def gaps : State := after (bwpBox .config1 0 24) [.rbAddInterval 0 5, .rbAddInterval 8 20]

theorem test_rbFindNext : report (exec (.rbFindNext 6 7) gaps) = (.ok, ⟨6, 7, 1, 0⟩)
    ∧ report (exec (.rbFindNext 8 10) gaps) = (.ok, ⟨0, 0, 0, 0⟩) := by decide
theorem test_rbFindLen : report (exec (.rbFindLen 0 2) gaps) = (.ok, ⟨5, 7, 1, 0⟩)
    ∧ report (exec (.rbFindLen 0 5) gaps) = (.ok, ⟨20, 24, 0, 0⟩) := by decide

/-! 95_test_vectors.md 2.3. -/

/-- 52 PRBs with the first five taken. -/
def taken : State := after (bwpBox .config1 0 52) [.rbAddInterval 0 5]

theorem test_rbGrantSetInterval : (nextOf (exec (.rbGrantSetInterval 50 53) box)).rb.gr = .type1 50 53
    ∧ (report (exec (.rbGrantSetInterval 0 276) box)).1 = .badOperand := by decide
theorem test_rbGrantSetRbgs : (nextOf (exec (.rbGrantSetRbgs 0x2000) box)).rb.gr = .type0 0x2000 := by decide
theorem test_rbGrantType : report (exec .rbGrantType box) = (.ok, ⟨1, 0, 0, 0⟩)
    ∧ report (exec .rbGrantType (after box [.rbGrantSetRbgs 0])) = (.ok, ⟨0, 0, 0, 0⟩) := by decide
theorem test_rbGrantGetPrbs : report (exec .rbGrantGetPrbs (after box [.rbGrantSetInterval 5 15])) = (.ok, ⟨5, 15, 0, 0⟩) := by
  decide
theorem test_rbGrantGetRbgs_fatal : (nextOf (exec .rbGrantGetRbgs box)).csrRead 0x02 = 0xF001
    ∧ report (exec .rbGrantGetRbgs (after box [.rbGrantSetRbgs 0xA05])) = (.ok, ⟨0xA05, 0, 0, 0⟩) := by decide
theorem test_rbAddGrant : (nextOf (exec .rbAddGrant (after (bwpBox .config1 0 52) [.rbGrantSetRbgs 3]))).rb.prbs = 0xFF := by
  decide
theorem test_rbCollides_type0 : report (exec .rbCollides (after taken [.rbGrantSetRbgs 2])) = (.ok, ⟨1, 0, 0, 0⟩) := by decide
theorem test_rbCollides_type1 : report (exec .rbCollides (after taken [.rbGrantSetInterval 5 8])) = (.ok, ⟨0, 0, 0, 0⟩)
    ∧ report (exec .rbCollides (after taken [.rbGrantSetInterval 4 8])) = (.ok, ⟨1, 0, 0, 0⟩) := by decide
theorem test_rbGrantEncode_riv :
    report (exec .rbGrantEncode (after (bwpBox .config1 0 52) [.rbGrantSetInterval 0 28])) = (.ok, ⟨1351, 11, 0, 0⟩) := by
  decide
theorem test_rbGrantEncode_type0 :
    report (exec .rbGrantEncode (after (bwpBox .config1 0 52) [.rbGrantSetRbgs 0x0A05])) = (.ok, ⟨0x140A, 13, 0, 0⟩) := by
  decide
theorem test_rbGrantDecode : (nextOf (exec (.rbGrantDecode .type1 1327) (bwpBox .config1 0 52))).rb.gr = .type1 24 52
    ∧ (nextOf (exec (.rbGrantDecode .type0 0x140A) (bwpBox .config1 0 52))).rb.gr = .type0 0x0A05 := by decide

/-! 95_test_vectors.md 2.6; `four` by hand from R283: reserved and HARQ-ACK element 0, then the strides 3, 2, 1. -/

theorem test_uciGenMux_u1 : (u1.uci.muxLoop.lists.pa, u1.uci.muxLoop.lists.p1, u1.uci.muxLoop.lists.p2)
    = ([8, 9, 12, 13], [16, 17, 18, 19, 20, 21], [10, 11]) := by decide
theorem test_uciGenMux : report (exec .uciGenMux u1) = (.ok, ⟨4, 6, 2, 20⟩) := by decide
theorem test_uciMux : elems (after four [.uciGenMux, .uciMux]) .gout 4 = [some 2, some 1, some 0, some 1] := by decide
theorem test_uciScramble :
    elems (after four [.uciGenMux, .uciMux, .uciScramble]) .gout 4 = [some 1, some 0, some 1, some 1] := by decide
theorem test_uciDemux : (after four [.uciGenMux, .uciDemux]).peek .lAck 0 = some 10
    ∧ (after four [.uciGenMux, .uciDemux]).peek .lCsi1 0 = some 11
    ∧ (after four [.uciGenMux, .uciDemux]).peek .lUlsch 0 = some 13 := by decide

/-! ## Witnesses: states and operands that meet the hypotheses of the statements -/

theorem witness_EncodedInstructionsDecodeBack : (Instr.subhdr1B true false 63).wellFormed = true
    ∧ (Instr.subhdr2B false 32 0xFF).wellFormed = true ∧ (Instr.subhdr3B true 60 0xFFFF).wellFormed = true
    ∧ (Instr.rbAddRbgs 0x7FFFF).wellFormed = true := by decide

theorem witness_DecodedWordsAreTheirEncodings : decode 0x23000000_0007FFFF#64 = .ok (.rbAddRbgs 0x7FFFF)
    ∧ decodeSubHeader [0xFF] = .ok (.subhdr1B true true 63) := by decide

theorem witness_StepRunsTheDecodedCommand : (box.cursor.len ≤ box.cursor.off ∧ box.inbox = [])
    ∧ (({ box with inbox := [0x2A00000000000000#64] } : State).fatal = none ∧ decode 0x2A00000000000000#64 = .ok .rbGrantType)
    ∧ (({ box with fatal := some .variant, inbox := [resetWord] } : State).inbox = resetWord :: []
      ∧ decode resetWord = .ok .sysReset) := by decide

/-- A parse at the first byte of an uplink block of two bytes, a two-byte sub-header. -/
def parse2 : State := { rxBox .ul [0x04, 0x00] with cursor := ⟨0, 2, []⟩ }
/-- A parse at the last byte of an uplink block: a sub-header whose length bytes are cut off. -/
def parse1 : State := { rxBox .ul [0x3F, 0x04] with cursor := ⟨1, 2, []⟩ }
/-- A parse at a three-byte sub-header. -/
def parse3 : State := { rxBox .dl [0x41, 0x01, 0x00] with cursor := ⟨0, 259, []⟩ }

theorem witness_StepRunsTheSubHeaderOfTheParse :
    (parse2.cursor.off < parse2.cursor.len ∧ encode (.subhdr2B false 4 0) = .wire [0x04, 0x00]
      ∧ 2 = (if hasLength (parse2.read .tb 0 % 64) parse2.mac.dir
          ∧ 0 + 1 + (if parse2.read .tb 0 / 64 % 2 = 1 then 2 else 1) ≤ 2
        then (if parse2.read .tb 0 / 64 % 2 = 1 then 3 else 2) else 1)
      ∧ ∀ k, k < 2 → parse2.read .tb (0 + k) = (([0x04, 0x00] : List Byte)[k]?.getD 0).toNat)
    ∧ (parse1.cursor.off < parse1.cursor.len ∧ encode (.subhdr1B false false 4) = .wire [0x04] ∧ parse1.read .tb 1 = 4
      ∧ ¬(1 + 1 + 1 ≤ parse1.cursor.len))
    ∧ (parse3.cursor.off < parse3.cursor.len ∧ encode (.subhdr3B false 1 256) = .wire [0x41, 0x01, 0x00]
      ∧ parse3.read .tb 0 = 0x41 ∧ parse3.read .tb 1 = 1 ∧ parse3.read .tb 2 = 0) := by decide

theorem witness_IllegalWordsChangeStatusAndCount :
    (({ box with inbox := [0x0500000000000000#64] } : State).fatal = none ∧ decode 0x0500000000000000#64 = .error .unknownOp)
    ∧ ((opField 0x0500000000000000#64).toNat = 0x05 ∧ (opField 0x0F00000000000000#64).toNat = 0x0F
      ∧ (opField 0x1D00000000000000#64).toNat = 0x1D ∧ (opField 0x1F00000000000000#64).toNat = 0x1F
      ∧ (opField 0x3400000000000000#64).toNat = 0x34 ∧ (opField 0xFFFFFFFFFFFFFFFF#64).toNat = 0xFF) := by decide

theorem witness_IllegalWordsChangeStatusAndCount_noRow :
    ∀ row ∈ opcodeRows, 0x0000000000000001#64 &&& row.1 ≠ row.2 := by
  have h : opcodeRows.all (fun row => 0x0000000000000001#64 &&& row.1 != row.2) = true := rfl
  intro row hr
  simpa using List.all_eq_true.mp h row hr

theorem witness_FatalErrorsLockTheBlock : box.fatal = none ∧ box.cursor.len ≤ box.cursor.off
    ∧ ({ box with fatal := some .variant, inbox := [0x0100000000000001#64] } : State).fatal = some .variant
    ∧ 0x0100000000000001#64 ≠ 0x0100000000000000#64 := by decide

theorem witness_RefusedCommandsHaveNoSideEffects : (Instr.rbClear).isSubHeader = false
    ∧ (nextOf (exec .rbClear box)).status ≠ .ok ∧ (nextOf (exec .rbGrantGetRbgs box)).fatal ≠ box.fatal := by decide

theorem witness_OnlyGrantAccessorsAreFatal : (nextOf (exec .rbGrantGetRbgs box)).status = .fVariant
    ∧ (nextOf (exec .rbGrantGetPrbs (after box [.rbGrantSetRbgs 1]))).status = .fVariant := by decide

theorem witness_EveryStepCompletesAndCounts :
    (Instr.sysNop).isSubHeader = false ∧ Instr.sysNop ≠ .sysReset ∧ (Instr.sysReset).isSubHeader = false := by decide

theorem witness_CommandsOfOneUnitLeaveTheOthers :
    (∀ w, encode .uciDemux = .command w → 0x02 ≤ (opField w).toNat ∧ ((opField w).toNat < 0x10 ∨ 0x20 ≤ (opField w).toNat))
    ∧ (∀ w, encode .uciGenMux = .command w → (opField w).toNat ≠ 0x01 ∧ ((opField w).toNat < 0x20 ∨ 0x30 ≤ (opField w).toNat))
    ∧ (∀ w, encode .uciDemux = .command w → (opField w).toNat = 0x00 ∨ (opField w).toNat = 0x04
        ∨ (0x10 ≤ (opField w).toNat ∧ (opField w).toNat < 0x30) ∨ (opField w).toNat = 0x33)
    ∧ (∀ w, encode (.rbPrb2Rbg 0) = .command w → (opField w).toNat ≤ 0x02 ∨ (opField w).toNat = 0x04
        ∨ (opField w).toNat = 0x10 ∨ (opField w).toNat = 0x11 ∨ (0x18 ≤ (opField w).toNat ∧ (opField w).toNat < 0x30)) := by
  refine ⟨?_, ?_, ?_, ?_⟩ <;> intro w h <;> cases h <;> decide

theorem witness_ResetSetsEveryRegister : (274 < 275 ∧ 18 < 19 ∧ 13 < 14)
    ∧ Space.tb ≠ .prbs ∧ Space.tb ≠ .rbgs ∧ Space.tb ≠ .msc ∧ Space.tb ≠ .muci := by decide

theorem witness_CsrWriteStoresAndInvalidates :
    (¬((0x04#8).toNat ≤ 0x03 ∨ (0x10 ≤ (0x04#8).toNat ∧ (0x04#8).toNat ≤ 0x14) ∨ (0x20 ≤ (0x04#8).toNat ∧ (0x04#8).toNat ≤ 0x26)
        ∨ (0x30 ≤ (0x04#8).toNat ∧ (0x04#8).toNat ≤ 0x3D)) ∧ ¬(0x3E ≤ 0x3D))
    ∧ ((0x03#8).toNat ≤ 0x03 ∧ 0x10 ≤ (0x10#8).toNat ∧ (0x26#8).toNat ≤ 0x26 ∧ 0x3B ≤ (0x3B#8).toNat)
    ∧ (0x30 ≤ (0x30#8).toNat ∧ (0x3A#8).toNat ≤ 0x3A ∧ 0x3A#8 ≠ 0x30#8) := by decide

theorem witness_SpacesAndRegistersTheHostSees : spaceOfId 20 = some .lUlsch ∧ 21 ≤ 21 ∧ 0 ≤ 20
    ∧ box.mac.sp.length < 2 ^ 32
    ∧ ¬((0x27#8).toNat ≤ 0x03 ∨ (0x10 ≤ (0x27#8).toNat ∧ (0x27#8).toNat ≤ 0x14) ∨ (0x20 ≤ (0x27#8).toNat ∧ (0x27#8).toNat ≤ 0x26)
        ∨ (0x30 ≤ (0x27#8).toNat ∧ (0x27#8).toNat ≤ 0x3D)) := by decide

/-- The register views the spec's examples give: `MAC_CTRL` after `MAC.INIT_RX` for UL (R220), `FATAL` and `STATUS` after a fatal (R320),
`GR_TAG` after a setter (R40). -/
theorem test_register_views : (nextOf (exec (.macInitRx .ul) box)).csrRead 0x10 = 0x12
    ∧ (nextOf (exec .rbGrantGetRbgs box)).csrRead 0x01 = 0xF0
    ∧ (nextOf (exec (.rbGrantSetRbgs 1) box)).csrRead 0x26 = 0 := by decide

theorem witness_MemWriteChangesOneElement : 21 ≤ (21#8).toNat ∧ Space.lUlsch.id = (20#8).toNat
    ∧ Space.msc.size box.params ≤ (14#32).toNat ∧ (13#32).toNat < Space.msc.size box.params
    ∧ Space.gout.hostWritable = false ∧ 2 ^ Space.bAck.width ≤ (4#16).toNat
    ∧ (Space.bAck.hostWritable = true ∧ (3#16).toNat < 2 ^ Space.bAck.width)
    ∧ (Space.tb.hostWritable = true ∧ (0xFF#16).toNat < 2 ^ Space.tb.width ∧ (txBox .ul 4).mac.mode = .tx)
    ∧ ¬(Space.tb = .tb ∧ (box.mac.mode = .tx ∨ box.mac.mode = .rxDone)) := by decide

theorem witness_MemReadReturnsTheElement : 21 ≤ (21#8).toNat ∧ Space.prbs.id = (2#8).toNat
    ∧ Space.prbs.size box.params ≤ (275#32).toNat ∧ (274#32).toNat < Space.prbs.size box.params := by decide

theorem witness_SessionCommandsSetMacu : (512#32).toNat ≤ box.params.tbCap ∧ box.params.tbCap < (513#32).toNat := by decide

theorem macInv_txBox (dir : Dir) (n : Word) (h : n.toNat ≤ 512) : MacInv (txBox dir n) where
  noParse := Nat.le_refl _
  tableFits := Nat.zero_le _
  idle := fun h => by cases h
  rx := fun h => by cases h
  rxDone := fun h => by cases h
  tx := fun _ => ⟨Nat.zero_add _, h⟩

/-- A transmit session whose table is full. -/
def fullBox (dir : Dir) : State :=
  { txBox dir 32 with mac := { (txBox dir 32).mac with sp := List.replicate 8 ⟨61, false, 1, 1, 1⟩ } }

theorem witness_AddSduAppendsTheSdu :
    box.mac.mode ≠ .tx
    ∧ ((txBox .ul 2).mac.mode = .tx ∧ ¬((lcidTable .ul 33).1 = 1 ∨ (lcidTable .ul 33).1 = 2)
      ∧ (lcidTable .ul 32).1 = 1 ∧ (lcidTable .ul 52).1 = 2)
    ∧ ((txBox .ul 2).params.plCap < (512#32).toNat + 1 ∧ (512#32).toNat + 0 ≤ (txBox .ul 2).params.plCap)
    ∧ ((fullBox .ul).mac.sp.length = (fullBox .ul).params.spCap ∧ (txBox .ul 2).mac.sp.length ≠ (txBox .ul 2).params.spCap)
    ∧ ((txBox .ul 2).mac.remain.toNat < 2 + 1 ∧ 2 + 0 ≤ (txBox .ul 2).mac.remain.toNat ∧ MacInv (txBox .ul 2)) :=
  ⟨by decide, by decide, by decide, by decide, by decide, by decide, macInv_txBox _ _ (by decide)⟩

theorem witness_AddControlElementAppendsItsPayload :
    (MacInv (txBox .ul 3) ∧ (txBox .ul 3).mac.mode = .tx ∧ (txBox .ul 3).mac.sp.length ≠ (txBox .ul 3).params.spCap
      ∧ (txBox .ul 3).mac.dir = .ul ∧ 3 ≤ (txBox .ul 3).mac.remain.toNat)
    ∧ (MacInv (txBox .ul 2) ∧ 2 ≤ (txBox .ul 2).mac.remain.toNat)
    ∧ (MacInv (txBox .dl 7) ∧ (txBox .dl 7).mac.dir = .dl ∧ 7 ≤ (txBox .dl 7).mac.remain.toNat) :=
  ⟨⟨macInv_txBox _ _ (by decide), by decide⟩, ⟨macInv_txBox _ _ (by decide), by decide⟩,
    macInv_txBox _ _ (by decide), by decide⟩

theorem witness_AddControlElementRefusals :
    (∃ rnti, Instr.macAddCrntiCe 1 = .macAddCrntiCe rnti) ∧ (∃ phr pcmax, Instr.macAddSePhrCe 1 2 = .macAddSePhrCe phr pcmax)
    ∧ (∃ lcg bs, Instr.macAddSbsrCe 1 2 = .macAddSbsrCe lcg bs) ∧ (∃ id, Instr.macAddConresCe 1 = .macAddConresCe id)
    ∧ box.mac.mode ≠ .tx ∧ (txBox .dl 2).mac.dir ≠ .ul
    ∧ (fullBox .ul).mac.sp.length = (fullBox .ul).params.spCap
    ∧ ((txBox .ul 2).mac.remain.toNat < 3 ∧ (txBox .ul 1).mac.remain.toNat < 2 ∧ (txBox .dl 6).mac.remain.toNat < 7) :=
  ⟨⟨1, rfl⟩, ⟨1, 2, rfl⟩, ⟨1, 2, rfl⟩, ⟨1, rfl⟩, by decide⟩

theorem witness_PackFillsTheRemainingSpace : box.mac.mode ≠ .tx
    ∧ ((txBox .ul 0).mac.mode = .tx ∧ (txBox .ul 0).mac.remain = 0)
    ∧ ((fullBox .ul).mac.remain ≠ 0 ∧ (fullBox .ul).mac.sp.length = (fullBox .ul).params.spCap)
    ∧ ((txBox .ul 1).mac.remain ≠ 0 ∧ (txBox .ul 1).mac.sp.length ≠ (txBox .ul 1).params.spCap ∧ MacInv (txBox .ul 1)) :=
  ⟨by decide, by decide, by decide, by decide, by decide, macInv_txBox _ _ (by decide)⟩

/-- A block of one byte: padding with an empty payload. -/
theorem witness_UnpackFindsTheSubPdus_parses :
    (rxBox .ul [0x3F]).mac.mode = .rx ∧ (∀ a, a < (1#32).toNat → ((rxBox .ul [0x3F]).peek .tb a).isSome)
    ∧ BlockParses .ul (fun a => ((rxBox .ul [0x3F]).peek .tb a).getD 0) (1#32).toNat 0 [⟨63, false, 1, 0, 1⟩] := by
  refine ⟨rfl, by decide, by decide, ?_, rfl⟩
  exact ⟨by decide, by decide, by decide, by decide, by decide, by decide⟩

/-- A block that starts with a reserved LCID parses to no list. -/
theorem witness_UnpackFindsTheSubPdus_refused :
    (rxBox .ul [0x21, 0]).mac.mode = .rx ∧ (∀ a, a < (2#32).toNat → ((rxBox .ul [0x21, 0]).peek .tb a).isSome)
    ∧ ¬∃ ds : List Desc, ds.length ≤ (rxBox .ul [0x21, 0]).params.spCap
      ∧ BlockParses .ul (fun a => ((rxBox .ul [0x21, 0]).peek .tb a).getD 0) (2#32).toNat 0 ds := by
  refine ⟨rfl, by decide, ?_⟩
  rintro ⟨ds, -, h⟩
  cases ds with
  | nil => exact absurd (show 0 = 2 from h) (by decide)
  | cons d ds =>
    have h1 : d.lcid.toNat = 33 := h.2.1.1
    have h2 := h.2.1.2.2.2.2.1
    rw [h1] at h2
    exact absurd h2 (by decide)

theorem witness_UnpackFindsTheSubPdus_bounds : box.mac.mode ≠ .rx
    ∧ (rxBox .ul []).params.tbCap < (513#32).toNat ∧ (512#32).toNat ≤ (rxBox .ul []).params.tbCap := by decide

/-- A sub-header of no length (DL 60) is one byte of a block. -/
theorem parsesUpTo_drx (s : State) (len : Nat) (h : 1 ≤ len) (hb : s.read .tb 0 = 60) :
    ParsesUpTo .dl (s.read .tb) len 0 [⟨60, false, 1, 0, 1⟩] 1 := by
  refine ⟨by omega, ?_, rfl⟩
  unfold Opens
  rw [hb]
  exact ⟨rfl, rfl, rfl, h, rfl, rfl, rfl⟩

/-- The same capacities with room for one descriptor only. -/
def oneEntry (s : State) : State := { s with params := ⟨512, 512, 1, 256⟩ }

/-- One witness for each check, the offending sub-PDU at offset 1: reserved, without a known size, length bytes cut off, the payload of a
two- and of a three-byte header one byte too long, a fixed size cut off, a full table. -/
theorem witness_UnpackNamesTheFirstOffence :
    (ParsesUpTo .dl ((rxBox .dl [60, 33]).read .tb) (2#32).toNat 0 [⟨60, false, 1, 0, 1⟩] 1 ∧ (rxBox .dl [60, 33]).mac.mode = .rx
      ∧ (2#32).toNat ≤ (rxBox .dl [60, 33]).params.tbCap ∧ (lcidTable .dl ((rxBox .dl [60, 33]).read .tb 1 % 64)).1 = 0)
    ∧ (ParsesUpTo .dl ((rxBox .dl [60, 47]).read .tb) (2#32).toNat 0 [⟨60, false, 1, 0, 1⟩] 1
      ∧ (lcidTable .dl ((rxBox .dl [60, 47]).read .tb 1 % 64)).1 = 6)
    ∧ (ParsesUpTo .dl ((rxBox .dl [60, 4]).read .tb) (2#32).toNat 0 [⟨60, false, 1, 0, 1⟩] 1
      ∧ (lcidTable .dl ((rxBox .dl [60, 4]).read .tb 1 % 64)).1 = 1 ∧ (2#32).toNat < 1 + 1 + 1)
    ∧ (ParsesUpTo .dl ((rxBox .dl [60, 4, 1]).read .tb) (3#32).toNat 0 [⟨60, false, 1, 0, 1⟩] 1
      ∧ (lcidTable .dl ((rxBox .dl [60, 4, 1]).read .tb 1 % 64)).1 = 1
      ∧ 1 + 1 + 1 ≤ (3#32).toNat ∧ (3#32).toNat < 1 + 1 + 1 + (rxBox .dl [60, 4, 1]).read .tb 2)
    ∧ (ParsesUpTo .dl ((rxBox .dl [60, 0x44, 0, 1]).read .tb) (4#32).toNat 0 [⟨60, false, 1, 0, 1⟩] 1
      ∧ (rxBox .dl [60, 0x44, 0, 1]).read .tb 1 / 64 % 2 = 1 ∧ 1 + 1 + 2 ≤ (4#32).toNat
      ∧ (4#32).toNat < 1 + 1 + 2 + (256 * (rxBox .dl [60, 0x44, 0, 1]).read .tb 2 + (rxBox .dl [60, 0x44, 0, 1]).read .tb 3))
    ∧ (ParsesUpTo .dl ((rxBox .dl [60, 61]).read .tb) (2#32).toNat 0 [⟨60, false, 1, 0, 1⟩] 1
      ∧ (lcidTable .dl ((rxBox .dl [60, 61]).read .tb 1 % 64)).1 = 3
      ∧ (2#32).toNat < 1 + 1 + (lcidTable .dl ((rxBox .dl [60, 61]).read .tb 1 % 64)).2)
    ∧ (ParsesUpTo .dl ((oneEntry (rxBox .dl [60, 63])).read .tb) (2#32).toNat 0 [⟨60, false, 1, 0, 1⟩] 1
      ∧ (∃ d, Opens .dl ((oneEntry (rxBox .dl [60, 63])).read .tb) (2#32).toNat 1 d)
      ∧ [(⟨60, false, 1, 0, 1⟩ : Desc)].length = (oneEntry (rxBox .dl [60, 63])).params.spCap) :=
  ⟨⟨parsesUpTo_drx _ _ (by decide) (by decide), by decide⟩, ⟨parsesUpTo_drx _ _ (by decide) (by decide), by decide⟩,
    ⟨parsesUpTo_drx _ _ (by decide) (by decide), by decide⟩, ⟨parsesUpTo_drx _ _ (by decide) (by decide), by decide⟩,
    ⟨parsesUpTo_drx _ _ (by decide) (by decide), by decide⟩, ⟨parsesUpTo_drx _ _ (by decide) (by decide), by decide⟩,
    parsesUpTo_drx _ _ (by decide) (by decide), ⟨⟨63, false, 1, 0, 2⟩, by unfold Opens; decide⟩, by decide⟩

theorem test_unpack_offences_later : (report (exec (.macUnpack 3) (rxBox .dl [60, 4, 1]))).1 = .malformedPdu
    ∧ (report (exec (.macUnpack 2) (rxBox .dl [60, 47]))).1 = .unsupportedLcid
    ∧ (report (exec (.macUnpack 2) (oneEntry (rxBox .dl [60, 63])))).1 = .tableFull := by decide

theorem witness_UnpackIsTheRunOfItsSubHeaders : (rxBox .ul [0x3F]).mac.mode = .rx
    ∧ (1#32).toNat ≤ (rxBox .ul [0x3F]).params.tbCap ∧ 0 < (1#32).toNat ∧ (rxBox .ul [0x3F]).cursor = .idle := by decide

theorem witness_SubHeadersAdvanceTheParse :
    ((∃ r, Instr.subhdr1B false false 63 = .subhdr1B r false 63) ∧ (lcidTable .ul 63).1 = 5 ∧ parse1.cursor.off < parse1.cursor.len
      ∧ parse1.cursor.off + 1 + (parse1.cursor.len - parse1.cursor.off - 1) = parse1.cursor.len
      ∧ parse1.cursor.list.length ≠ parse1.params.spCap)
    ∧ ((∃ r n, Instr.subhdr2B false 4 0 = .subhdr2B r 4 n) ∧ (lcidTable .ul 4).1 = 1
      ∧ parse2.cursor.off + 2 + (0#8).toNat = parse2.cursor.len)
    ∧ ((∃ r n, Instr.subhdr3B false 1 255 = .subhdr3B r 1 n) ∧ (lcidTable .dl 1).1 = 1
      ∧ parse3.cursor.off + 3 + (255#16).toNat < parse3.cursor.len) :=
  ⟨⟨⟨false, rfl⟩, by decide⟩, ⟨⟨false, 0, rfl⟩, by decide⟩, ⟨false, 255, rfl⟩, by decide⟩

theorem witness_SubHeadersEndTheParseInError : (∃ r f, Instr.subhdr1B false false 33 = .subhdr1B r f 33)
    ∧ box.cursor.len ≤ box.cursor.off ∧ parse1.cursor.off < parse1.cursor.len ∧ (lcidTable .ul 33).1 = 0
    ∧ (lcidTable .ul 53).1 = 6 ∧ (lcidTable .ul 60).1 = 4 ∧ (lcidTable .ul 32).1 = 1 :=
  ⟨⟨false, false, rfl⟩, by decide⟩

/-- A payload one byte too long, by a fixed size, an 8-bit and a 16-bit length, and a padding that meets a full table. -/
theorem witness_SubHeadersEndTheParseInError_payload :
    ((∃ r f, Instr.subhdr1B false false 61 = .subhdr1B r f 61) ∧ (lcidTable .ul 61).1 = 3
      ∧ parse1.cursor.len < parse1.cursor.off + 1 + (lcidTable .ul 61).2)
    ∧ ((∃ r n, Instr.subhdr2B false 4 1 = .subhdr2B r 4 n) ∧ (lcidTable .ul 4).1 = 1
      ∧ parse2.cursor.off < parse2.cursor.len ∧ parse2.cursor.len < parse2.cursor.off + 2 + (1#8).toNat)
    ∧ ((∃ r n, Instr.subhdr3B false 1 257 = .subhdr3B r 1 n) ∧ (lcidTable .dl 1).1 = 1
      ∧ parse3.cursor.off < parse3.cursor.len ∧ parse3.cursor.len < parse3.cursor.off + 3 + (257#16).toNat)
    ∧ ((lcidTable .ul 63).1 = 5 ∧ (oneEntry parse1).cursor.off < (oneEntry parse1).cursor.len
      ∧ ({ oneEntry parse1 with cursor := ⟨1, 2, [⟨63, false, 1, 0, 1⟩]⟩ } : State).cursor.list.length
        = (oneEntry parse1).params.spCap) :=
  ⟨⟨⟨false, false, rfl⟩, by decide⟩, ⟨⟨false, 1, rfl⟩, by decide⟩, ⟨⟨false, 257, rfl⟩, by decide⟩, by decide⟩

/-- A parsed block of one Long Truncated BSR with one of three values. -/
def lbsr : State := after (rxBox .ul [0x3C, 2, 7, 5]) [.macUnpack 4]

theorem witness_GetSubpduReturnsTheEntry : box.mac.mode = .idle ∧ lbsr.mac.mode = .rxDone
    ∧ lbsr.mac.sp.length ≤ (1#32).toNat ∧ lbsr.mac.sp[(0#32).toNat]? = some ⟨60, false, 2, 2, 2⟩ := by decide

theorem witness_GetLbsrDecodesTheGroups_refusals : lbsr.mac.sp.length ≤ (1#32).toNat
    ∧ ((after (rxBox .ul [0x3F]) [.macUnpack 1]).mac.sp[(0#32).toNat]? = some ⟨63, false, 1, 0, 1⟩
      ∧ ¬(63#6 = 60 ∨ 63#6 = 62))
    ∧ (after (rxBox .ul [0x3E, 0]) [.macUnpack 2]).mac.sp[(0#32).toNat]? = some ⟨62, false, 2, 0, 2⟩
    ∧ ((after (rxBox .ul [0x3E, 1, 1]) [.macUnpack 3]).mac.sp[(0#32).toNat]? = some ⟨62, false, 2, 1, 2⟩
      ∧ (after (rxBox .ul [0x3E, 1, 1]) [.macUnpack 3]).peek .tb 2 = some 1 ∧ 1 ≤ groupsBelow 1 8) := by decide

theorem witness_GetLbsrDecodesTheGroups : lbsr.mac.sp[(0#32).toNat]? = some ⟨60, false, 2, 2, 2⟩ ∧ lbsr.mac.dir = .ul
    ∧ lbsr.peek .tb 2 = some 7 ∧ (∀ j, j < 8 → 1 + j < (2#32).toNat → lbsr.peek .tb (2 + 1 + j) = some 5)
    ∧ ((after (rxBox .ul [0x3E, 1, 0]) [.macUnpack 3]).peek .tb 2 = some 0 ∧ groupsBelow 0 8 < 1) := by decide

theorem witness_StepKeepsMacuRegisters : MacInv (txBox .ul 3)
    ∧ step { txBox .ul 3 with inbox := [0x1501000100000000#64] }
      = .next (nextOf (exec (.macAddSbsrCe 1 1) { txBox .ul 3 with serial := 1 })) :=
  ⟨macInv_txBox _ _ (by decide), rfl⟩

/-- A transmit session with one Short BSR written. -/
def oneSbsr : State := after (txBox .ul 3) [.macAddSbsrCe 1 1]

theorem witness_StepKeepsPackPath : MacInv oneSbsr ∧ PackInv oneSbsr := by
  constructor
  · constructor <;> decide
  · refine ⟨fun _ i d h => ?_, by decide, by decide, by decide, by decide⟩
    have hs : oneSbsr.mac.sp = [⟨61, false, 1, 1, 1⟩] := by decide
    rw [hs] at h ⊢
    cases i with
    | zero => cases h; decide
    | succ i => cases h

theorem witness_RbInitSetsTheGeometry : ¬(1 ≤ (0#32).toNat)
    ∧ ¬((1#16).toNat + (275#32).toNat ≤ 275) ∧ (1 ≤ (275#32).toNat ∧ (275#32).toNat ≤ 275 ∧ (0#16).toNat + (275#32).toNat ≤ 275) := by
  decide

theorem witness_RbClearClearsBothBitmaps : box.rb.nprb = 0 ∧ (bwpBox .config1 0 1).rb.nprb ≠ 0 := by decide

theorem witness_AddIntervalSetsPrbsAndTheirRbgs : (bwpBox .config1 7 24).rb.nprb ≠ 0
    ∧ ¬((5#16).toNat ≤ (4#32).toNat) ∧ ¬((25#32).toNat ≤ (bwpBox .config1 7 24).rb.nprb.toNat)
    ∧ ((24#16).toNat ≤ (24#32).toNat ∧ (24#32).toNat ≤ (bwpBox .config1 7 24).rb.nprb.toNat) := by decide

theorem witness_AddRbgsSetsWholeRbgs : 2 ^ (bwpBox .config1 7 24).rb.nrbg.toNat ≤ (0x2000#19).toNat
    ∧ (0x1FFF#19).toNat < 2 ^ (bwpBox .config1 7 24).rb.nrbg.toNat := by decide

theorem witness_AddGrantAddsTheActiveVariant : (after taken [.rbGrantSetRbgs 0x2000]).rb.gr = .type0 0x2000
    ∧ 2 ^ taken.rb.nrbg.toNat ≤ (0x2000#19).toNat ∧ (0x1FFF#19).toNat < 2 ^ taken.rb.nrbg.toNat
    ∧ (after taken [.rbGrantSetInterval 50 53]).rb.gr = .type1 50 53 ∧ taken.rb.nprb.toNat < (53#9).toNat
    ∧ (after taken [.rbGrantSetInterval 0 52]).rb.gr = .type1 0 52 ∧ (52#9).toNat ≤ taken.rb.nprb.toNat := by decide

theorem witness_CollidesComparesAtNativeGranularity : (after taken [.rbGrantSetRbgs 2]).rb.gr = .type0 2
    ∧ (2#19).toNat < 2 ^ taken.rb.nrbg.toNat ∧ (after taken [.rbGrantSetInterval 5 8]).rb.gr = .type1 5 8 := by decide

theorem isGap_empty : IsGap (bwpBox .config1 0 24).rb.prbs 0 24 0 24 := by
  refine ⟨by decide, by decide, by decide, ?_, .inl rfl, .inl rfl⟩
  intro p _ hp
  simp [bwpBox]

theorem witness_FindNextReturnsTheFirstGap : (bwpBox .config1 0 24).rb.nprb ≠ 0
    ∧ min (bwpBox .config1 0 24).rb.nprb.toNat (0xFFFFFFFF#32).toNat = 24
    ∧ IsGap (bwpBox .config1 0 24).rb.prbs (0#16).toNat 24 0 24
    ∧ ¬∃ a b, IsGap (bwpBox .config1 0 24).rb.prbs (24#16).toNat 24 a b := by
  refine ⟨by decide, by decide, isGap_empty, ?_⟩
  rintro ⟨a, b, h1, h2, h3, -⟩
  have : (24#16).toNat = 24 := rfl
  omega

theorem witness_PrbToRbgNamesTheContainingRbg : box.rb.nprb = 0 ∧ (bwpBox .config1 7 24).rb.nprb ≠ 0
    ∧ (bwpBox .config1 7 24).rb.nprb.toNat ≤ (24#32).toNat ∧ (23#32).toNat < (bwpBox .config1 7 24).rb.nprb.toNat := by decide

theorem rbInv_bwpBox : RbInv (bwpBox .config1 7 24) where
  unset := by decide
  bwp := by decide
  p := by decide
  first := by decide
  nrbg := by decide
  rbgCount := by decide
  prbTop := fun i _ => by simp [bwpBox]
  rbgTop := fun g _ => by simp [bwpBox]
  consistent := fun i h => by simp [bwpBox] at h
  interval := fun a b h => by cases h; decide

theorem witness_StepKeepsBitmapsConsistent : RbInv (bwpBox .config1 7 24)
    ∧ step { bwpBox .config1 7 24 with inbox := [0x2200000200000004#64] }
      = .next (nextOf (exec (.rbAddInterval 2 4) { bwpBox .config1 7 24 with serial := 1 })) := ⟨rbInv_bwpBox, rfl⟩

theorem witness_GrantSettersReplaceTheGrant : ¬((9#16).toNat ≤ (8#32).toNat) ∧ ¬((276#32).toNat ≤ 275)
    ∧ ((275#16).toNat ≤ (275#32).toNat ∧ (275#32).toNat ≤ 275) := by decide

theorem witness_GrantAccessorsReadTheirVariant : box.rb.gr = .type1 0 0 ∧ box.fatal = none
    ∧ (after box [.rbGrantSetRbgs 0x7FFFF]).rb.gr = .type0 0x7FFFF := by decide

theorem witness_GrantEncodeGivesTheField : box.rb.nprb = 0
    ∧ ((after taken [.rbGrantSetRbgs 0x2000]).rb.gr = .type0 0x2000 ∧ 2 ^ taken.rb.nrbg.toNat ≤ (0x2000#19).toNat)
    ∧ (0x1FFF#19).toNat < 2 ^ taken.rb.nrbg.toNat
    ∧ ((after taken [.rbGrantSetInterval 7 7]).rb.gr = .type1 7 7 ∧ (7#9).toNat - (7#9).toNat < 1)
    ∧ ((after taken [.rbGrantSetInterval 51 52]).rb.gr = .type1 51 52 ∧ 1 ≤ (52#9).toNat - (51#9).toNat
      ∧ (52#9).toNat ≤ taken.rb.nprb.toNat) := by decide

theorem witness_GrantDecodeStoresTheGrantOfTheField : 2 ^ taken.rb.nrbg.toNat ≤ (0x2000#32).toNat
    ∧ (taken.rb.nrbg.toNat ≤ 19 ∧ (0x1FFF#32).toNat < 2 ^ taken.rb.nrbg.toNat)
    ∧ taken.rb.nprb.toNat * (taken.rb.nprb.toNat + 1) / 2 ≤ (1378#32).toNat
    ∧ (1377#32).toNat < taken.rb.nprb.toNat * (taken.rb.nprb.toNat + 1) / 2 := by decide

theorem witness_RivNumbersTheIntervals : 1 ≤ 52 ∧ 1 ≤ 52 ∧ 0 + 52 ≤ 52 ∧ 1377 < 52 * (52 + 1) / 2 := by decide

/-- The bandwidth part of `rbInv_bwpBox` with a grant of 9 PRBs, and the same with another grant. -/
theorem witness_DecodingAnEncodedGrantRestoresIt :
    RbInv { bwpBox .config1 7 24 with rb := { (bwpBox .config1 7 24).rb with gr := .type1 3 12 } }
    ∧ (report (exec .rbGrantEncode (after (bwpBox .config1 7 24) [.rbGrantSetInterval 3 12]))).1 = .ok
    ∧ { (bwpBox .config1 7 24).rb with gr := .type1 3 12 } = (after (bwpBox .config1 7 24) [.rbGrantSetInterval 3 12]).rb
    ∧ (AllocType.type1 = .type0 ↔ ∃ mask, Grant.type1 3 12 = .type0 mask) := by
  refine ⟨?_, by decide, by decide, ⟨fun h => (by cases h), fun ⟨_, h⟩ => (by cases h)⟩⟩
  exact { rbInv_bwpBox with
    unset := by decide
    interval := fun a b h => by cases h; decide }

theorem witness_PickSpreadsByTheStride : (0 < 2 ∧ 0 < 8 ∧ 8 % 2 = 0 ∧ [0, 1, 2, 3] ≠ [])
    ∧ ([0, 1, 2, 3].length * 2 ≤ 8 ∧ ¬([0, 1, 2, 3].length * 2 ≤ 6)) := by decide

theorem legal_u1 : MuxConfigLegal u1 := by unfold MuxConfigLegal; decide
theorem legal_four : MuxConfigLegal four := by unfold MuxConfigLegal; decide

/-- Configurations U13, U9 and U10 of 95_test_vectors.md 2.6. -/
def u13 : State := { u1 with uci := { u1.uci with nl := 5 } }
def u9 : State := { u1 with uci := { u1.uci with nofre := 15 } }
def u10 : State := { u1 with uci := { u1.uci with gulsch := 18 } }

theorem legal_u9 : MuxConfigLegal u9 := by unfold MuxConfigLegal; decide
theorem legal_u10 : MuxConfigLegal u10 := by unfold MuxConfigLegal; decide

/-- `four` where CSI may start only after its one symbol, so nothing carries it. -/
def late : State := { four with uci := { four.uci with l1csi := 1 } }

theorem legal_late : MuxConfigLegal late := by unfold MuxConfigLegal; decide

/-- The lists before symbol `l`, where only symbol 0 assigns anything. -/
def onlyFirst (q : MuxLists) (l : Nat) : MuxLists := if l = 0 then ⟨[], [], [], []⟩ else q

theorem generates_onlyFirst {s : State} {q : MuxLists} (h0 : AssignsSymbol s 0 ⟨[], [], [], []⟩ 0 q 1)
    (h : ∀ l, l < 14 → l ≠ 0 → mscOf s l = 0) : GeneratesPositions s q := by
  refine ⟨onlyFirst q, fun l => if l = 0 then 0 else 1, rfl, rfl, ?_, rfl⟩
  intro l hl
  cases l with
  | zero => exact h0
  | succ l =>
    exact ⟨fun _ => ⟨rfl, rfl⟩, fun hm => absurd (h _ hl (by omega)) hm, fun hm => absurd (h _ hl (by omega)) hm⟩

/-- By hand from R283: element 0 is reserved and carries HARQ-ACK, CSI part 1 takes the first of the rest, then CSI part 2. -/
theorem generates_four : GeneratesPositions four ⟨[0], [1], [2], [3]⟩ := by
  refine generates_onlyFirst ⟨fun h => absurd h (by decide), fun _ h => absurd h (by decide), fun _ _ => ?_⟩ (by decide)
  refine ⟨[0], [0], [1], [2], ?_, by decide⟩
  constructor <;> simp only [IsPick] <;> decide

/-- By hand from R283: as `generates_four`, but the symbol lies before `l1c`. -/
theorem generates_late : GeneratesPositions late ⟨[0], [], [], [1, 2, 3]⟩ := by
  refine generates_onlyFirst ⟨fun h => absurd h (by decide), fun _ h => absurd h (by decide), fun _ _ => ?_⟩ (by decide)
  refine ⟨[0], [0], [], [], ?_, by decide⟩
  constructor <;> simp only [IsPick] <;> decide

theorem witness_GenMuxRefusals : ¬MuxConfigLegal u13 ∧ (MuxConfigLegal u9 ∧ reCount u9 ≠ u9.uci.nofre.toNat)
    ∧ (MuxConfigLegal u10
      ∧ u10.uci.gack.toNat + u10.uci.gcsi1.toNat + u10.uci.gcsi2.toNat + u10.uci.gulsch.toNat ≠ symbolBase u10.uci 14)
    ∧ (MuxConfigLegal late ∧ GeneratesPositions late ⟨[0], [], [], [1, 2, 3]⟩ ∧ ¬MeetsTargets late ⟨[0], [], [], [1, 2, 3]⟩)
    ∧ uciCapacity late late.uci.l1csi.toNat < late.uci.gcsi1.toNat + late.uci.gcsi2.toNat
    ∧ (MuxConfigLegal { u1 with uci := { u1.uci with l1 := 4 } }
      ∧ uciCapacity { u1 with uci := { u1.uci with l1 := 4 } } 4 < u1.uci.gack.toNat) :=
  ⟨fun h => absurd h.2.1 (by decide), ⟨legal_u9, by decide⟩, ⟨legal_u10, by decide⟩,
    ⟨legal_late, generates_late, by unfold MeetsTargets; decide⟩, by decide, legal_u1, by decide⟩

theorem test_uciGenMux_late : (report (exec .uciGenMux late)).1 = .reMismatch
    ∧ (report (exec .uciGenMux { u1 with uci := { u1.uci with l1 := 4 } })).1 = .reMismatch := by decide

theorem witness_GenMuxCommitsItsLists : MuxConfigLegal four ∧ reCount four = four.uci.nofre.toNat
    ∧ GeneratesPositions four ⟨[0], [1], [2], [3]⟩ ∧ MeetsTargets four ⟨[0], [1], [2], [3]⟩ :=
  ⟨legal_four, by decide, generates_four, by unfold MeetsTargets; decide⟩

/-- Configuration U4 of 95_test_vectors.md 2.6: no UCI at all. -/
def u4 : State :=
  { u1 with uci := { u1.uci with oack := 0, gack := 0, gackrvd := 0, gcsi1 := 0, gcsi2 := 0, gulsch := 32 } }

theorem witness_GenMuxCommitsItsLists_withoutUci : MuxConfigLegal u4 ∧ reCount u4 = u4.uci.nofre.toNat
    ∧ u4.uci.gack = 0 ∧ u4.uci.gackrvd = 0 ∧ u4.uci.gcsi1 = 0 ∧ u4.uci.gcsi2 = 0
    ∧ u4.uci.gulsch.toNat = symbolBase u4.uci 14 := by
  refine ⟨?_, by decide⟩
  unfold MuxConfigLegal; decide

theorem witness_GenMuxPartitionsTheCodedBits : (report (exec .uciGenMux u1)).1 = .ok := by decide

/-- `four` after `UCI.GEN_MUX`. -/
def ready : State := after four [.uciGenMux]

theorem uciInv_ready : UciInv ready where
  invalid := by decide
  positions := fun _ => by
    refine ⟨⟨[0], [1], [2], [3]⟩, by decide, ?_, ?_, ?_, ?_⟩ <;> intro m <;> cases m <;> rfl
  total := by decide
  multiplexed := by decide
  scrambled := fun h => absurd h (by decide)

theorem witness_MuxPlacesTheStreams : box.uci.valid = false ∧ ready.uci.valid = true ∧ UciInv ready
    ∧ ready.uci.oack.toNat ≤ 2
    ∧ (2 < (3#32).toNat ∧ ∃ m v, m < ready.uci.gack.toNat ∧ ready.peek .bAck m = some v ∧ 2 ≤ v) :=
  ⟨by decide, by decide, uciInv_ready, by decide, by decide, 0, 2, by decide⟩

/-- `ready` after `UCI.MUX`. -/
def muxed : State := after ready [.uciMux]

theorem witness_ScrambleResolvesTheMarkers : ¬(ready.uci.valid = true ∧ ready.uci.gstate = .muxed)
    ∧ (muxed.uci.valid = true ∧ muxed.uci.gstate = .muxed)
    ∧ ({ muxed with mem := { muxed.mem with gout := Bank.ofList [3, 0, 0, 0] } } : State).peek .gout 0 = some 3
    ∧ (∀ i, i < muxed.uci.gtot.toNat → (muxed.peek .gout i).isSome)
    ∧ ¬(0 < muxed.uci.gtot.toNat ∧ muxed.peek .gout 0 = some 3) := by decide

theorem witness_DemuxSortsTheValues : box.uci.valid = false ∧ ready.uci.valid = true ∧ UciInv ready :=
  ⟨by decide, by decide, uciInv_ready⟩

theorem witness_DemuxInvertsMux : UciInv ready ∧ (report (exec .uciMux ready)).1 = .ok
    ∧ (∀ i, i < muxed.uci.gtot.toNat →
      ({ muxed with mem := { muxed.mem with lin := Bank.ofList [2, 1, 0, 1] } } : State).peek .lin i = muxed.peek .gout i)
    ∧ ready.peek .bAck 0 = some 2 :=
  ⟨uciInv_ready, by decide, by decide, by decide⟩

theorem witness_StepKeepsUciFlagsHonest : UciInv ready
    ∧ step { ready with inbox := [0x3100000000000000#64] } = .next (nextOf (exec .uciMux { ready with serial := 1 })) :=
  ⟨uciInv_ready, rfl⟩

theorem witness_StepKeepsMemoryCanonical : box.mem.wf = true ∧ step box = .next box := ⟨rfl, rfl⟩

end Sys2Proof.Tests
end

section
/-! The canonical form of memory and the capacities along a step (00_scope.md R7, log entries 2 and 4). The first two parts
hold for any property of the next state: what a completion commits, and what a step can be. -/

namespace Sys2Proof.Machine

/-! ### What a completion commits, for any property of the state -/

/-- The writes that a rule commits, if it commits any, leave a state with the property. -/
def Result.Commits (P : State → Prop) (res : Result) : Prop := ∀ t, res = .ok t → P t

namespace Result.Commits

variable {P : State → Prop}

theorem ok {t : State} (h : P t) : Commits P (.ok t) := fun _ heq => Result.ok.inj heq ▸ h

theorem raise (e : Code) : Commits P (.raise e) := fun _ heq => nomatch heq

theorem fatal (c : FatalCause) : Commits P (.fatal c) := fun _ heq => nomatch heq

/-- Behind a precondition the rule may rely on it. -/
theorem require {p : Prop} [Decidable p] {e : Code} {k : Result} (h : p → Commits P k) :
    Commits P (Machine.require p e k) := by
  intro t heq
  obtain ⟨hp, hk⟩ := require_eq_ok.mp heq
  exact h hp t hk

end Result.Commits

/-- Every next state of an outcome has the property. -/
def NextHas (P : State → Prop) (o : Host.Outcome State Fault Refusal) : Prop := ∀ t, o = .next t → P t

theorem NextHas.next {P : State → Prop} {t : State} (h : P t) : NextHas P (.next t) :=
  fun _ heq => Host.Outcome.next.inj heq ▸ h

/-! ### What a step can be -/

/-- The meaning of a sub-header pattern is one pass of the parse loop (43_mac_parse.md R222, log entry 5). -/
theorem exec_of_subHeaderOf {i : Instr} {h : SubHeader} (hi : subHeaderOf i = some h) (s : State) :
    exec i s = .next (s.parseSubHeader h) := by
  cases i with
  | subhdr1B r f lcid => obtain rfl := Option.some.inj hi; rfl
  | subhdr2B r lcid len => obtain rfl := Option.some.inj hi; rfl
  | subhdr3B r lcid len => obtain rfl := Option.some.inj hi; rfl
  | _ => cases hi

/-- With a parse in progress a step runs the sub-header at the cursor: the bytes there always form one. -/
theorem stepSubHeader_eq (s : State) : ∃ h, (s.fetchSubHeader s.cursor).toOption.bind subHeaderOf = some h
    ∧ stepSubHeader s = .next (s.parseSubHeader h) := by
  obtain ⟨h, hfetch⟩ : ∃ h, (s.fetchSubHeader s.cursor).toOption.bind subHeaderOf = some h :=
    ⟨_, s.fetchSubHeader_eq s.cursor⟩
  refine ⟨h, hfetch, ?_⟩
  unfold stepSubHeader
  cases hi : s.fetchSubHeader s.cursor with
  | error e => simp [hi, Except.toOption] at hfetch
  | ok i => exact exec_of_subHeaderOf (by simpa [hi, Except.toOption] using hfetch) s

/-- Everything a step from `s` to `t` can be (60_exceptions.md R321, R338, log entries 1 and 5). -/
inductive StepsTo (s t : State) : Prop where
  | idle (noParse : s.cursor.len ≤ s.cursor.off) (noWord : s.inbox = []) (same : t = s)
  | locked (w : CmdWord) (rest : List CmdWord) (noParse : s.cursor.len ≤ s.cursor.off) (word : s.inbox = w :: rest)
      (lock : s.fatal.isSome) (notReset : w ≠ resetWord) (refused : t = (s.issue rest).complete (.raise .locked))
  | illegal (w : CmdWord) (rest : List CmdWord) (e : Illegal) (noParse : s.cursor.len ≤ s.cursor.off)
      (word : s.inbox = w :: rest) (free : ¬(s.fatal.isSome ∧ w ≠ resetWord)) (bad : decode w = .error e)
      (refused : t = (s.issue rest).complete (.raise .illegalCmd))
  | command (w : CmdWord) (rest : List CmdWord) (i : Instr) (noParse : s.cursor.len ≤ s.cursor.off)
      (word : s.inbox = w :: rest) (free : ¬(s.fatal.isSome ∧ w ≠ resetWord)) (decoded : decode w = .ok i)
      (run : exec i (s.issue rest) = .next t)
  | subHeader (h : SubHeader) (parse : s.cursor.off < s.cursor.len)
      (fetched : (s.fetchSubHeader s.cursor).toOption.bind subHeaderOf = some h) (pass : t = s.parseSubHeader h)

theorem stepsTo_of_step {s t : State} (h : step s = .next t) : StepsTo s t := by
  by_cases hparse : s.cursor.off < s.cursor.len
  · obtain ⟨sub, hfetch, hstep⟩ := stepSubHeader_eq s
    rw [step_of_parse hparse, hstep] at h
    exact .subHeader sub hparse hfetch (Host.Outcome.next.inj h).symm
  · have hidle : s.cursor.len ≤ s.cursor.off := Nat.le_of_not_lt hparse
    rw [step_of_no_parse hidle] at h
    cases hin : s.inbox with
    | nil =>
      simp only [stepCommand, hin, Host.Outcome.next.injEq] at h
      exact .idle hidle hin h.symm
    | cons w rest =>
      simp only [stepCommand, hin] at h
      obtain ⟨hlock, hw, he⟩ | ⟨hfree, ⟨e, hd⟩, he⟩ | ⟨hfree, i, hd, he⟩ := entry_cases w (s.issue rest)
      · exact .locked w rest hidle hin hlock hw (Host.Outcome.next.inj (he.symm.trans h)).symm
      · exact .illegal w rest e hidle hin hfree hd (Host.Outcome.next.inj (he.symm.trans h)).symm
      · exact .command w rest i hidle hin hfree hd (he.symm.trans h)

/-! ### The canonical form under the writes of UCIU -/

/-- Writes in the order of a list, each value computed from the space as it then stands, keep the canonical form. -/
theorem Bank.wf_foldl_set {w : Nat} (value : Bank w → Nat → BitVec w) (addrs : List Nat) (b : Bank w)
    (h : b.wf = true) : (addrs.foldl (fun b a => b.set a (value b a)) b).wf = true := by
  induction addrs generalizing b with
  | nil => exact h
  | cons a addrs ih => exact ih _ (Bank.wf_set b a _ h)

theorem State.scrambled_wf (s : State) (n : Nat) (h : s.mem.gout.wf = true) : (s.scrambled n).wf = true :=
  Bank.wf_foldl_set _ _ _ h

theorem Memory.wf_gout {m : Memory} (h : m.wf = true) : m.gout.wf = true := by
  simp only [Memory.wf, Bool.and_eq_true] at h
  simp only [h]

theorem Memory.wf_with_gout {m : Memory} {b : Bank 2} (h : m.wf = true) (hb : b.wf = true) :
    ({ m with gout := b } : Memory).wf = true := by
  simp only [Memory.wf, Bool.and_eq_true] at h ⊢
  simp only [h, hb, and_self]

theorem Memory.wf_with_soft {m : Memory} {ack csi1 csi2 ulsch : Bank 8} (h : m.wf = true) (hack : ack.wf = true)
    (hcsi1 : csi1.wf = true) (hcsi2 : csi2.wf = true) (hulsch : ulsch.wf = true) :
    ({ m with lAck := ack, lCsi1 := csi1, lCsi2 := csi2, lUlsch := ulsch } : Memory).wf = true := by
  simp only [Memory.wf, Bool.and_eq_true] at h ⊢
  simp only [h, hack, hcsi1, hcsi2, hulsch, and_self]

/-! ### The relation that every step keeps -/

/-- From `s` to `t` the capacities stay (R7), and memory stays in canonical form (log entry 4). -/
structure KeepsForm (s t : State) : Prop where
  params : t.params = s.params
  mem : s.mem.wf = true → t.mem.wf = true

namespace KeepsForm

/-- Where the memory spaces are not written, their form stays. -/
theorem of_mem_eq {s t : State} (hparams : t.params = s.params) (hmem : t.mem = s.mem) : KeepsForm s t :=
  ⟨hparams, fun h => hmem ▸ h⟩

theorem complete {s : State} {res : Result} (h : res.Commits (KeepsForm s)) : KeepsForm s (s.complete res) := by
  cases res with
  | ok t => exact ⟨(h t rfl).params, (h t rfl).mem⟩
  | raise e => exact of_mem_eq rfl rfl
  | fatal c => exact of_mem_eq rfl rfl

/-- A command keeps the form if the writes of its rule do. -/
theorem command {s : State} {res : Result} (h : res.Commits (KeepsForm s)) :
    NextHas (KeepsForm s) (.next (s.complete res)) :=
  .next (complete h)

/-- A rule whose writes reach neither the memory spaces nor the capacities commits a state of the same form. -/
theorem commits_of_mem_eq {s t : State} (hparams : t.params = s.params) (hmem : t.mem = s.mem) :
    (Result.ok t).Commits (KeepsForm s) :=
  .ok (of_mem_eq hparams hmem)

/-! #### MACU -/

theorem putSubPdu (s : State) (lcid : BitVec 6) (f : Bool) (hlen slen : Nat) (pay : List Byte) :
    KeepsForm s (s.putSubPdu lcid f hlen slen pay) :=
  ⟨s.putSubPdu_params lcid f hlen slen pay, s.putSubPdu_wf lcid f hlen slen pay⟩

theorem append (s : State) (lcid : BitVec 6) (f : Bool) (hlen slen : Nat) (pay : List Byte) :
    (s.append lcid f hlen slen pay).Commits (KeepsForm s) := by
  obtain ⟨-, heq⟩ | ⟨-, -, heq⟩ | ⟨-, -, heq⟩ := s.append_cases lcid f hlen slen pay
  · exact heq ▸ .raise _
  · exact heq ▸ .raise _
  · have hput := putSubPdu s lcid f hlen slen pay
    exact heq ▸ .ok ⟨hput.params, hput.mem⟩

theorem appendCe (s : State) (dir : Dir) (lcid : BitVec 6) (pay : List Byte) :
    (s.appendCe dir lcid pay).Commits (KeepsForm s) :=
  .require fun _ => .require fun _ => append s _ _ _ _ _

theorem finishBlock (s : State) : KeepsForm s s.finishBlock := by
  unfold State.finishBlock
  split
  · exact putSubPdu s _ _ _ _ _
  · exact of_mem_eq rfl rfl

theorem parseSubHeader (s : State) (h : SubHeader) : KeepsForm s (s.parseSubHeader h) := by
  unfold State.parseSubHeader
  split
  · split
    · exact of_mem_eq rfl rfl
    · split
      · exact of_mem_eq rfl rfl
      · exact complete (commits_of_mem_eq rfl rfl)
  · exact of_mem_eq rfl rfl

theorem macUnpack (len : Word) (s : State) : NextHas (KeepsForm s) (execMacUnpack len s) := by
  refine command (.require fun _ => .require fun _ => ?_)
  split
  · exact .raise _
  · exact commits_of_mem_eq rfl rfl

theorem macGetSubpdu (index : Word) (s : State) : NextHas (KeepsForm s) (execMacGetSubpdu index s) := by
  refine command (.require fun _ => ?_)
  split
  · exact .raise _
  · exact commits_of_mem_eq rfl rfl

theorem macGetLbsr (index : Word) (s : State) : NextHas (KeepsForm s) (execMacGetLbsr index s) := by
  refine command (.require fun _ => ?_)
  split
  · exact .raise _
  · refine .require fun _ => .require fun _ => ?_
    dsimp only
    split
    · exact .raise _
    · exact commits_of_mem_eq rfl rfl

/-! #### The host's accesses -/

theorem memWr (space : BitVec 8) (data : BitVec 16) (addr : Word) (s : State) :
    NextHas (KeepsForm s) (execMemWr space data addr s) := by
  refine command ?_
  split
  · exact .raise _
  · next sp _ =>
    have hwrite : KeepsForm s (s.hostWrite sp addr.toNat data.toNat) :=
      ⟨s.hostWrite_params sp _ _, fun h => s.hostWrite_mem sp _ _ ▸ s.poke_wf sp _ _ h⟩
    exact .require fun _ => .require fun _ => .require fun _ => .require fun _ => .ok hwrite

theorem memRd (space : BitVec 8) (addr : Word) (s : State) : NextHas (KeepsForm s) (execMemRd space addr s) := by
  refine command ?_
  split
  · exact .raise _
  · exact .require fun _ => commits_of_mem_eq rfl rfl

/-! #### RBAU -/

theorem rbFindNext (startIdx : BitVec 16) (lastIdx : Word) (s : State) :
    NextHas (KeepsForm s) (execRbFindNext startIdx lastIdx s) := by
  refine command (.require fun _ => ?_)
  split
  · exact commits_of_mem_eq rfl rfl
  · exact commits_of_mem_eq rfl rfl

theorem rbGrantGetPrbs (s : State) : NextHas (KeepsForm s) (execRbGrantGetPrbs s) := by
  refine command ?_
  split
  · exact .fatal _
  · exact commits_of_mem_eq rfl rfl

theorem rbGrantGetRbgs (s : State) : NextHas (KeepsForm s) (execRbGrantGetRbgs s) := by
  refine command ?_
  split
  · exact commits_of_mem_eq rfl rfl
  · exact .fatal _

/-! #### UCIU -/

theorem uciGenMux (s : State) : NextHas (KeepsForm s) (execUciGenMux s) := by
  refine command ?_
  split
  · exact .raise _
  · exact .ok ⟨rfl, s.mem.putPositions_wf _⟩

theorem uciMux (s : State) : NextHas (KeepsForm s) (execUciMux s) :=
  command <| .require fun _ => .require fun _ =>
    .ok ⟨rfl, fun h => Memory.wf_with_gout h (Bank.wf_setAll _ _ Bank.wf_empty)⟩

theorem uciScramble (s : State) : NextHas (KeepsForm s) (execUciScramble s) :=
  command <| .require fun _ => .require fun _ =>
    .ok ⟨rfl, fun h => Memory.wf_with_gout h (s.scrambled_wf _ (Memory.wf_gout h))⟩

theorem uciDemux (s : State) : NextHas (KeepsForm s) (execUciDemux s) :=
  command <| .require fun _ =>
    .ok ⟨rfl, fun h => Memory.wf_with_soft h (Bank.wf_ofList _) (Bank.wf_ofList _) (Bank.wf_ofList _) (Bank.wf_ofList _)⟩

/-! #### Every instruction, every step -/

theorem of_exec (i : Instr) (s : State) : NextHas (KeepsForm s) (exec i s) := by
  cases i with
  | sysNop => exact command (commits_of_mem_eq rfl rfl)
  | sysReset => exact .next (of_mem_eq s.softReset_params s.softReset_mem)
  | csrWr csr value => exact command (.require fun _ => .require fun _ => commits_of_mem_eq rfl rfl)
  | memWr space data addr => exact memWr space data addr s
  | memRd space addr => exact memRd space addr s
  | macInitTx dir tbLen => exact command (.require fun _ => commits_of_mem_eq rfl rfl)
  | macInitRx dir => exact command (commits_of_mem_eq rfl rfl)
  | macAddSdu lcid len addr =>
    exact command (.require fun _ => .require fun _ => .require fun _ => append s _ _ _ _ _)
  | macAddCrntiCe rnti => exact command (appendCe s _ _ _)
  | macAddSePhrCe phr pcmax => exact command (appendCe s _ _ _)
  | macAddSbsrCe lcg bs => exact command (appendCe s _ _ _)
  | macAddConresCe id => exact command (appendCe s _ _ _)
  | macPack =>
    have hblock := finishBlock s
    exact command (.require fun _ => .require fun _ => .ok ⟨hblock.params, hblock.mem⟩)
  | macUnpack len => exact macUnpack len s
  | macGetSubpdu index => exact macGetSubpdu index s
  | macGetLbsr index => exact macGetLbsr index s
  | macRelease => exact command (commits_of_mem_eq rfl rfl)
  | macChkLcid lcid dir => exact command (commits_of_mem_eq rfl rfl)
  | rbInit cfg start n => exact command (.require fun _ => commits_of_mem_eq rfl rfl)
  | rbClear => exact command (.require fun _ => commits_of_mem_eq rfl rfl)
  | rbAddInterval start stop => exact command (.require fun _ => .require fun _ => commits_of_mem_eq rfl rfl)
  | rbAddRbgs mask => exact command (.require fun _ => .require fun _ => commits_of_mem_eq rfl rfl)
  | rbAddGrant => exact command (.require fun _ => .require fun _ => commits_of_mem_eq rfl rfl)
  | rbCollides => exact command (.require fun _ => .require fun _ => commits_of_mem_eq rfl rfl)
  | rbFindNext startIdx lastIdx => exact rbFindNext startIdx lastIdx s
  | rbFindLen startIdx nofPrbs => exact command (.require fun _ => commits_of_mem_eq rfl rfl)
  | rbGrantSetInterval start stop => exact command (.require fun _ => commits_of_mem_eq rfl rfl)
  | rbGrantSetRbgs mask => exact command (commits_of_mem_eq rfl rfl)
  | rbGrantType => exact command (commits_of_mem_eq rfl rfl)
  | rbGrantGetPrbs => exact rbGrantGetPrbs s
  | rbGrantGetRbgs => exact rbGrantGetRbgs s
  | rbGrantEncode => exact command (.require fun _ => .require fun _ => commits_of_mem_eq rfl rfl)
  | rbGrantDecode type field => exact command (.require fun _ => .require fun _ => commits_of_mem_eq rfl rfl)
  | rbPrb2Rbg prb => exact command (.require fun _ => .require fun _ => commits_of_mem_eq rfl rfl)
  | uciGenMux => exact uciGenMux s
  | uciMux => exact uciMux s
  | uciScramble => exact uciScramble s
  | uciDemux => exact uciDemux s
  | subhdr1B r f lcid => exact .next (parseSubHeader s _)
  | subhdr2B r lcid len => exact .next (parseSubHeader s _)
  | subhdr3B r lcid len => exact .next (parseSubHeader s _)

/-- The issue of a word writes neither memory nor the capacities, so what holds from the command's own state holds from `s`. -/
theorem of_issue {s t : State} {rest : List CmdWord} (h : KeepsForm (s.issue rest) t) : KeepsForm s t :=
  ⟨h.params, h.mem⟩

theorem of_step {s t : State} (h : step s = .next t) : KeepsForm s t := by
  cases stepsTo_of_step h with
  | idle _ _ same => exact of_mem_eq (same ▸ rfl) (same ▸ rfl)
  | locked w rest _ _ _ _ refused => exact of_issue (refused ▸ complete (.raise _))
  | illegal w rest e _ _ _ _ refused => exact of_issue (refused ▸ complete (.raise _))
  | command w rest i _ _ _ _ run => exact of_issue (of_exec i _ t run)
  | subHeader sub _ _ pass => exact pass ▸ parseSubHeader s sub

end KeepsForm

/-- Settles O60: the writes of every command keep the canonical form and the capacities, a refusal writes nothing, and
neither does the issue of a word. -/
theorem stepKeepsMemoryCanonical : Obligations.StepKeepsMemoryCanonical := by
  intro s t h
  obtain ⟨hparams, hmem⟩ := KeepsForm.of_step h
  exact ⟨hparams, hmem⟩

end Sys2Proof.Machine
end

section
/-! What a command leaves unchanged (10_state.md R20, the "Writes" lines of files 40 to 45), said once for every instruction, and
the induction step of an invariant: a predicate on which neither the completion nor the issue of a command has an influence
holds after a step if every rule keeps it. -/

namespace Sys2Proof

open Laws.EncodesItsOpcode

/-! ### Which units an instruction may write, by its `op` value (30_encoding.md R104) -/

theorem exists_word_of_opcode {i : Instr} {op : BitVec 8} (h : opcode i = some op) :
    ∃ w, encode i = .command w ∧ opField w = op := by
  cases i with
  | subhdr1B | subhdr2B | subhdr3B => cases h
  | _ => exact ⟨_, rfl, (Machine.opField_packWord _ _ _ _).trans (Option.some.inj h)⟩

theorem isSubHeader_of_opcode_none {i : Instr} (h : opcode i = none) : i.isSubHeader = true := by
  cases i with
  | subhdr1B | subhdr2B | subhdr3B => rfl
  | _ => cases h

/-- A test of the `op` value; `wire` is the answer for a sub-header, which has none. -/
def Instr.opTest (i : Instr) (wire : Bool) (p : Nat → Prop) [DecidablePred p] : Bool :=
  (opcode i).elim wire fun op => p op.toNat

/-- A test that fails for the `op` field of the command word, and for a sub-header, fails. -/
theorem Instr.opTest_eq_false {i : Instr} {wire : Bool} {p : Nat → Prop} [DecidablePred p]
    (hwire : i.isSubHeader = true → wire = false) (hword : ∀ w, encode i = .command w → ¬p (opField w).toNat) :
    i.opTest wire p = false := by
  unfold Instr.opTest
  cases hop : opcode i with
  | none => exact hwire (isSubHeader_of_opcode_none hop)
  | some op =>
    obtain ⟨w, hw, rfl⟩ := exists_word_of_opcode hop
    exact decide_eq_false (hword w hw)

/-- `SYS.RESET`, the commands of MACU that do not only report, and the sub-headers write MACU and the parse in progress. -/
def Instr.writesMac (i : Instr) : Bool :=
  i.opTest true fun op => op = 0x01 ∨ (0x10 ≤ op ∧ op ≤ 0x18) ∨ op = 0x1B

/-- `SYS.RESET` and the commands of RBAU that do not only report write RBAU. -/
def Instr.writesRb (i : Instr) : Bool :=
  i.opTest false fun op => op = 0x01 ∨ (0x20 ≤ op ∧ op ≤ 0x24) ∨ op = 0x28 ∨ op = 0x29 ∨ op = 0x2E

/-- `SYS.RESET`, `CSR.WR`, `MEM.WR` and the commands of UCIU but `UCI.DEMUX` write the registers of UCIU. -/
def Instr.writesUci (i : Instr) : Bool :=
  i.opTest false fun op => (0x01 ≤ op ∧ op ≤ 0x03) ∨ (0x30 ≤ op ∧ op < 0x33)

/-- `MEM.WR`, the commands of the serializer and those of UCIU write the spaces marked unspecified at reset. -/
def Instr.writesMem (i : Instr) : Bool :=
  i.opTest false fun op => op = 0x03 ∨ (0x12 ≤ op ∧ op < 0x18) ∨ (0x30 ≤ op ∧ op < 0x34)

end Sys2Proof

namespace Sys2Proof.Machine

/-! ### Predicates that the completion of a command does not touch -/

/-- `STATUS`, `CSEQ` and `FATAL`, which the completion writes, have no influence on the predicate. -/
def IgnoresCompletion (P : State → Prop) : Prop :=
  ∀ (s : State) (code : Code) (count : Word) (lock : Option FatalCause),
    P s → P { s with status := code, cseq := count, fatal := lock }

theorem IgnoresCompletion.complete {P : State → Prop} (hP : IgnoresCompletion P) {s : State} {res : Result} (hs : P s)
    (h : res.Commits P) : P (s.complete res) := by
  cases res with
  | ok t => exact hP t _ _ _ (h t rfl)
  | raise e => exact hP s _ _ _ hs
  | fatal c => exact hP s _ _ _ hs

theorem IgnoresCompletion.command {P : State → Prop} (hP : IgnoresCompletion P) {s : State} {res : Result} (hs : P s)
    (h : res.Commits P) : NextHas P (.next (s.complete res)) :=
  .next (hP.complete hs h)

/-- The step of an invariant: only the rules of the instructions are left to look at. -/
theorem IgnoresCompletion.step {P : State → Prop} (hP : IgnoresCompletion P)
    (hissue : ∀ (s : State) (rest : List CmdWord), P s → P (s.issue rest))
    (hexec : ∀ (i : Instr) (s : State), P s → NextHas P (exec i s)) (s t : State) (hs : P s)
    (h : step s = .next t) : P t := by
  cases stepsTo_of_step h with
  | idle _ _ same => exact same ▸ hs
  | locked w rest _ _ _ _ refused => exact refused ▸ hP.complete (hissue s rest hs) (.raise _)
  | illegal w rest e _ _ _ _ refused => exact refused ▸ hP.complete (hissue s rest hs) (.raise _)
  | command w rest i _ _ _ _ run => exact hexec i _ (hissue s rest hs) t run
  | subHeader sub _ fetched pass =>
    obtain ⟨i, -, hi⟩ := Option.bind_eq_some_iff.mp fetched
    exact hexec i s hs t ((exec_of_subHeaderOf hi s).trans (congrArg _ pass.symm))

/-! ### The frame of an instruction -/

/-- The four position memories are the same in both. -/
structure Memory.SamePositions (m m' : Memory) : Prop where
  ack : m'.posAck = m.posAck
  csi1 : m'.posCsi1 = m.posCsi1
  csi2 : m'.posCsi2 = m.posCsi2
  ulsch : m'.posUlsch = m.posUlsch

theorem Memory.SamePositions.refl (m : Memory) : m.SamePositions m := ⟨rfl, rfl, rfl, rfl⟩

/-- What instruction `i` leaves as it is on the way from `s` to `t`. -/
structure Frame (i : Instr) (s t : State) : Prop where
  params : t.params = s.params
  inbox : t.inbox = s.inbox
  serial : t.serial = s.serial
  mac : i.writesMac = false → t.mac = s.mac ∧ t.cursor = s.cursor
  rb : i.writesRb = false → t.rb = s.rb
  uci : i.writesUci = false → t.uci = s.uci
  mem : i.writesMem = false → t.mem = s.mem
  positions : i ≠ .uciGenMux → s.mem.SamePositions t.mem
  gout : i ≠ .uciMux → i ≠ .uciScramble → t.mem.gout = s.mem.gout

namespace Frame

variable {i : Instr} {s : State}

theorem ignoresCompletion (i : Instr) (s : State) : IgnoresCompletion (Frame i s) :=
  fun _ _ _ _ h => { h with }

/-- Where the rule writes the result registers alone, everything else is left. -/
theorem results (r : Regs) : Frame i s { s with r := r } :=
  ⟨rfl, rfl, rfl, fun _ => ⟨rfl, rfl⟩, fun _ => rfl, fun _ => rfl, fun _ => rfl, fun _ => .refl _, fun _ _ => rfl⟩

theorem refl : Frame i s s := results s.r

theorem session (hi : i.writesMac = true) (r : Regs) (mac : Mac) (cursor : Cursor) :
    Frame i s { s with r := r, mac := mac, cursor := cursor } :=
  { results (i := i) (s := s) r with mac := fun h => nomatch hi.symm.trans h }

theorem block (hi : i.writesMac = true) (hm : i.writesMem = true) (r : Regs) (mac : Mac) (tb : Bank 8) :
    Frame i s { s with r := r, mac := mac, mem := { s.mem with tb := tb } } :=
  { results (i := i) (s := s) r with
    mac := fun h => nomatch hi.symm.trans h
    mem := fun h => nomatch hm.symm.trans h
    positions := fun _ => ⟨rfl, rfl, rfl, rfl⟩ }

theorem bitmaps (hi : i.writesRb = true) (rb : Rb) : Frame i s { s with rb := rb } :=
  { refl (i := i) (s := s) with rb := fun h => nomatch hi.symm.trans h }

theorem command {res : Result} (h : res.Commits (Frame i s)) : NextHas (Frame i s) (.next (s.complete res)) :=
  (ignoresCompletion i s).command refl h

theorem softReset (s : State) : Frame .sysReset s s.softReset where
  params := s.softReset_params
  inbox := s.softReset_inbox
  serial := s.softReset_serial
  mac := nofun
  rb := nofun
  uci := nofun
  mem _ := s.softReset_mem
  positions _ := .refl _
  gout _ _ := rfl

/-! #### MACU -/

theorem append (hi : i.writesMac = true) (hm : i.writesMem = true) (lcid : BitVec 6) (f : Bool) (hlen slen : Nat)
    (pay : List Byte) : (s.append lcid f hlen slen pay).Commits (Frame i s) := by
  obtain ⟨-, heq⟩ | ⟨-, -, heq⟩ | ⟨-, -, heq⟩ := s.append_cases lcid f hlen slen pay
  · exact heq ▸ .raise _
  · exact heq ▸ .raise _
  · exact heq ▸ .ok (block hi hm _ _ _)

theorem appendCe (hi : i.writesMac = true) (hm : i.writesMem = true) (dir : Dir) (lcid : BitVec 6) (pay : List Byte) :
    (s.appendCe dir lcid pay).Commits (Frame i s) :=
  .require fun _ => .require fun _ => append hi hm _ _ _ _ _

theorem finishBlock (s : State) (r : Regs) : Frame .macPack s { s.finishBlock with r := r } := by
  unfold State.finishBlock
  split
  · exact block rfl rfl _ _ _
  · exact results _

theorem parseSubHeader (hi : i.writesMac = true) (s : State) (h : SubHeader) : Frame i s (s.parseSubHeader h) := by
  unfold State.parseSubHeader
  split
  · split
    · exact ignoresCompletion i s _ _ _ _ (session hi s.r s.mac .idle)
    · split
      · exact session hi s.r s.mac _
      · exact (ignoresCompletion i s).complete refl (.ok (session hi _ _ _))
  · exact refl

theorem macUnpack (len : Word) (s : State) : NextHas (Frame (.macUnpack len) s) (execMacUnpack len s) := by
  refine command (.require fun _ => .require fun _ => ?_)
  split
  · exact .raise _
  · exact .ok (session rfl _ _ _)

theorem macGetSubpdu (index : Word) (s : State) : NextHas (Frame (.macGetSubpdu index) s) (execMacGetSubpdu index s) := by
  refine command (.require fun _ => ?_)
  split
  · exact .raise _
  · exact .ok (results _)

theorem macGetLbsr (index : Word) (s : State) : NextHas (Frame (.macGetLbsr index) s) (execMacGetLbsr index s) := by
  refine command (.require fun _ => ?_)
  split
  · exact .raise _
  · refine .require fun _ => .require fun _ => ?_
    dsimp only
    split
    · exact .raise _
    · exact .ok (results _)

/-! #### The host's accesses -/

/-- The host can write neither a bitmap, nor a position memory, nor `GOUT` (40_system_commands.md R145). -/
theorem hostWrite (space : BitVec 8) (data : BitVec 16) (addr : Word) {sp : Space} (hsp : sp.hostWritable = true)
    (a v : Nat) : Frame (.memWr space data addr) s (s.hostWrite sp a v) where
  params := s.hostWrite_params sp a v
  inbox := s.hostWrite_inbox sp a v
  serial := s.hostWrite_serial sp a v
  mac _ := ⟨s.hostWrite_mac sp a v, s.hostWrite_cursor sp a v⟩
  rb _ := by
    rw [s.hostWrite_rb sp a v]
    cases sp with
    | prbs | rbgs => cases hsp
    | _ => rfl
  uci := nofun
  mem := nofun
  positions _ := by
    rw [s.hostWrite_mem sp a v]
    cases sp with
    | posAck | posCsi1 | posCsi2 | posUlsch => cases hsp
    | _ => exact ⟨rfl, rfl, rfl, rfl⟩
  gout _ _ := by
    rw [s.hostWrite_mem sp a v]
    cases sp with
    | gout => cases hsp
    | _ => rfl

theorem memWr (space : BitVec 8) (data : BitVec 16) (addr : Word) (s : State) :
    NextHas (Frame (.memWr space data addr) s) (execMemWr space data addr s) := by
  refine command ?_
  split
  · exact .raise _
  · exact .require fun _ => .require fun hsp => .require fun _ => .require fun _ => .ok (hostWrite _ _ _ hsp _ _)

theorem memRd (space : BitVec 8) (addr : Word) (s : State) :
    NextHas (Frame (.memRd space addr) s) (execMemRd space addr s) := by
  refine command ?_
  split
  · exact .raise _
  · exact .require fun _ => .ok (results _)

theorem csrWr (csr : BitVec 8) (value : Word) (s : State) :
    NextHas (Frame (.csrWr csr value) s) (execCsrWr csr value s) :=
  command <| .require fun _ => .require fun _ => .ok { refl (i := .csrWr csr value) (s := s) with uci := nofun }

/-! #### RBAU -/

theorem rbFindNext (startIdx : BitVec 16) (lastIdx : Word) (s : State) :
    NextHas (Frame (.rbFindNext startIdx lastIdx) s) (execRbFindNext startIdx lastIdx s) := by
  refine command (.require fun _ => ?_)
  split
  · exact .ok (results _)
  · exact .ok (results _)

theorem rbGrantGetPrbs (s : State) : NextHas (Frame .rbGrantGetPrbs s) (execRbGrantGetPrbs s) := by
  refine command ?_
  split
  · exact .fatal _
  · exact .ok (results _)

theorem rbGrantGetRbgs (s : State) : NextHas (Frame .rbGrantGetRbgs s) (execRbGrantGetRbgs s) := by
  refine command ?_
  split
  · exact .ok (results _)
  · exact .fatal _

/-! #### UCIU -/

theorem uciGenMux (s : State) : NextHas (Frame .uciGenMux s) (execUciGenMux s) := by
  refine command ?_
  split
  · exact .raise _
  · exact .ok { results (i := .uciGenMux) (s := s) s.r with
      uci := nofun
      mem := nofun
      positions := fun h => absurd rfl h }

theorem uciMux (s : State) : NextHas (Frame .uciMux s) (execUciMux s) :=
  command <| .require fun _ => .require fun _ =>
    .ok { results (i := .uciMux) (s := s) s.r with
      uci := nofun
      mem := nofun
      positions := fun _ => ⟨rfl, rfl, rfl, rfl⟩
      gout := fun h => absurd rfl h }

theorem uciScramble (s : State) : NextHas (Frame .uciScramble s) (execUciScramble s) :=
  command <| .require fun _ => .require fun _ =>
    .ok { results (i := .uciScramble) (s := s) s.r with
      uci := nofun
      mem := nofun
      positions := fun _ => ⟨rfl, rfl, rfl, rfl⟩
      gout := fun _ h => absurd rfl h }

theorem uciDemux (s : State) : NextHas (Frame .uciDemux s) (execUciDemux s) :=
  command <| .require fun _ =>
    .ok { results (i := .uciDemux) (s := s) s.r with
      mem := nofun
      positions := fun _ => ⟨rfl, rfl, rfl, rfl⟩ }

/-! #### Every instruction -/

theorem of_exec (i : Instr) (s : State) : NextHas (Frame i s) (exec i s) := by
  cases i with
  | sysNop => exact command (.ok refl)
  | sysReset => exact .next (softReset s)
  | csrWr csr value => exact csrWr csr value s
  | memWr space data addr => exact memWr space data addr s
  | memRd space addr => exact memRd space addr s
  | macInitTx dir tbLen => exact command (.require fun _ => .ok (session rfl _ _ _))
  | macInitRx dir => exact command (.ok (session rfl _ _ _))
  | macAddSdu lcid len addr =>
    exact command (.require fun _ => .require fun _ => .require fun _ => append rfl rfl _ _ _ _ _)
  | macAddCrntiCe rnti => exact command (appendCe rfl rfl _ _ _)
  | macAddSePhrCe phr pcmax => exact command (appendCe rfl rfl _ _ _)
  | macAddSbsrCe lcg bs => exact command (appendCe rfl rfl _ _ _)
  | macAddConresCe id => exact command (appendCe rfl rfl _ _ _)
  | macPack => exact command (.require fun _ => .require fun _ => .ok (finishBlock s _))
  | macUnpack len => exact macUnpack len s
  | macGetSubpdu index => exact macGetSubpdu index s
  | macGetLbsr index => exact macGetLbsr index s
  | macRelease => exact command (.ok (session rfl _ _ _))
  | macChkLcid lcid dir => exact command (.ok (results _))
  | rbInit cfg start n => exact command (.require fun _ => .ok (bitmaps rfl _))
  | rbClear => exact command (.require fun _ => .ok (bitmaps rfl _))
  | rbAddInterval start stop => exact command (.require fun _ => .require fun _ => .ok (bitmaps rfl _))
  | rbAddRbgs mask => exact command (.require fun _ => .require fun _ => .ok (bitmaps rfl _))
  | rbAddGrant => exact command (.require fun _ => .require fun _ => .ok (bitmaps rfl _))
  | rbCollides => exact command (.require fun _ => .require fun _ => .ok (results _))
  | rbFindNext startIdx lastIdx => exact rbFindNext startIdx lastIdx s
  | rbFindLen startIdx nofPrbs => exact command (.require fun _ => .ok (results _))
  | rbGrantSetInterval start stop => exact command (.require fun _ => .ok (bitmaps rfl _))
  | rbGrantSetRbgs mask => exact command (.ok (bitmaps rfl _))
  | rbGrantType => exact command (.ok (results _))
  | rbGrantGetPrbs => exact rbGrantGetPrbs s
  | rbGrantGetRbgs => exact rbGrantGetRbgs s
  | rbGrantEncode => exact command (.require fun _ => .require fun _ => .ok (results _))
  | rbGrantDecode type field => exact command (.require fun _ => .require fun _ => .ok (bitmaps rfl _))
  | rbPrb2Rbg prb => exact command (.require fun _ => .require fun _ => .ok (results _))
  | uciGenMux => exact uciGenMux s
  | uciMux => exact uciMux s
  | uciScramble => exact uciScramble s
  | uciDemux => exact uciDemux s
  | subhdr1B r f lcid => exact .next (parseSubHeader rfl s _)
  | subhdr2B r lcid len => exact .next (parseSubHeader rfl s _)
  | subhdr3B r lcid len => exact .next (parseSubHeader rfl s _)

end Frame

/-- Settles O12, by the frame of every instruction: the `op` ranges of the statement are those whose instructions leave the
unit. -/
theorem commandsOfOneUnitLeaveTheOthers : Obligations.CommandsOfOneUnitLeaveTheOthers := by
  intro i s t h
  have hframe := Frame.of_exec i s t h
  refine ⟨⟨hframe.params, hframe.inbox, hframe.serial⟩, fun hop hsub => ?_, fun hop => ?_, fun hop => ?_, fun hop => ?_⟩
  · exact (hframe.mac (Instr.opTest_eq_false (fun hs => nomatch hsub.symm.trans hs) fun w hw => by
      have := hop w hw
      omega)).1
  · exact hframe.rb (Instr.opTest_eq_false (fun _ => rfl) fun w hw => by
      have := hop w hw
      omega)
  · exact hframe.uci (Instr.opTest_eq_false (fun _ => rfl) fun w hw => by
      have := hop w hw
      omega)
  · exact hframe.mem (Instr.opTest_eq_false (fun _ => rfl) fun w hw => by
      have := hop w hw
      omega)

end Sys2Proof.Machine
end

section
/-! The MACU registers along a step (10_state.md R34, R35, R20). -/

namespace Sys2Proof.Machine

theorem toNat_word_of_lt {v : Nat} (h : v < 2 ^ 32) : (word v).toNat = v := by
  rw [BitVec.toNat_ofNat, Nat.mod_eq_of_lt h]

/-- With no parse in progress a sub-header does nothing (43_mac_parse.md R222, log entry 5). -/
theorem State.parseSubHeader_of_no_parse {s : State} (hidle : s.cursor.len ≤ s.cursor.off) (h : SubHeader) :
    s.parseSubHeader h = s :=
  if_neg (Nat.not_lt.mpr hidle)

/-- The parse never holds more sub-PDUs than the table has entries, and does not change the length of the block. -/
theorem State.parseLoop_fits {s : State} {fuel : Nat} {c c' : Cursor} (hc : c.list.length ≤ s.params.spCap)
    (h : s.parseLoop fuel c = .ok c') : c'.list.length ≤ s.params.spCap ∧ c'.len = c.len := by
  induction fuel generalizing c with
  | zero =>
    obtain rfl := Except.ok.inj h
    exact ⟨hc, rfl⟩
  | succ fuel ih =>
    unfold State.parseLoop at h
    split at h
    · split at h
      · cases h
      · split at h
        · cases h
        · next hpass =>
          obtain ⟨hlen, slen, -, -, hfree, hnext⟩ := parseOne_eq_ok.mp hpass
          obtain ⟨hfit, hsame⟩ := ih (by rw [hnext, List.length_append, List.length_singleton]; omega) h
          exact ⟨hfit, hsame.trans (hnext ▸ rfl)⟩
    · obtain rfl := Except.ok.inj h
      exact ⟨hc, rfl⟩

end Sys2Proof.Machine

namespace Sys2Proof.Safety.MacInv

open Sys2Proof.Machine

variable {s t : State}

theorem ignoresCompletion : IgnoresCompletion MacInv := fun _ _ _ _ h => { h with }

/-- Whether the invariant holds is a matter of the capacities, the parse in progress and MACU. -/
theorem of_eq (hs : MacInv s) (hparams : t.params = s.params) (hcursor : t.cursor = s.cursor) (hmac : t.mac = s.mac) :
    MacInv t where
  noParse := by rw [hcursor]; exact hs.noParse
  tableFits := by rw [hparams, hmac]; exact hs.tableFits
  idle := by rw [hmac]; exact hs.idle
  rx := by rw [hmac]; exact hs.rx
  rxDone := by rw [hparams, hmac]; exact hs.rxDone
  tx := by rw [hparams, hmac]; exact hs.tx

/-- A released MACU has no session and nothing in its registers (44_mac_pack.md R268). -/
theorem of_released (hcursor : t.cursor.len ≤ t.cursor.off) (hmac : t.mac = Mac.reset) : MacInv t where
  noParse := hcursor
  tableFits := by rw [hmac]; exact Nat.zero_le _
  idle _ := hmac
  rx := by rw [hmac]; nofun
  rxDone := by rw [hmac]; nofun
  tx := by rw [hmac]; nofun

/-- An appended sub-PDU that fits: the bytes written and the bytes left still add up to the block (44_mac_pack.md R251). -/
theorem putSubPdu (hs : MacInv s) (htx : s.mac.mode = .tx) (hfree : s.mac.sp.length ≠ s.params.spCap)
    {hlen slen : Nat} (hfit : hlen + slen ≤ s.mac.remain.toNat) (lcid : BitVec 6) (f : Bool) (pay : List Byte) :
    MacInv (s.putSubPdu lcid f hlen slen pay) where
  noParse := hs.noParse
  tableFits := by
    have := hs.tableFits
    simp only [State.putSubPdu_mac_sp, State.putSubPdu_params, List.length_append, List.length_singleton]
    omega
  idle h := nomatch htx.symm.trans h
  rx h := nomatch htx.symm.trans h
  rxDone h := nomatch htx.symm.trans h
  tx _ := by
    obtain ⟨hsum, hcap⟩ := hs.tx htx
    have hlt := s.mac.tbLen.isLt
    refine ⟨?_, hcap⟩
    rw [State.putSubPdu_mac_woff, State.putSubPdu_mac_remain, State.putSubPdu_mac_tbLen,
      toNat_word_of_lt (by omega), toNat_word_of_lt (by omega)]
    omega

theorem append (hs : MacInv s) (htx : s.mac.mode = .tx) (lcid : BitVec 6) (f : Bool) (hlen slen : Nat)
    (pay : List Byte) : (s.append lcid f hlen slen pay).Commits MacInv := by
  obtain ⟨-, heq⟩ | ⟨-, -, heq⟩ | ⟨hfree, hfit, heq⟩ := s.append_cases lcid f hlen slen pay
  · exact heq ▸ .raise _
  · exact heq ▸ .raise _
  · exact heq ▸ .ok ((hs.putSubPdu htx hfree hfit lcid f pay).of_eq rfl rfl rfl)

theorem appendCe (hs : MacInv s) (dir : Dir) (lcid : BitVec 6) (pay : List Byte) :
    (s.appendCe dir lcid pay).Commits MacInv :=
  .require fun htx => .require fun _ => hs.append htx _ _ _ _ _

theorem finishBlock (hs : MacInv s) (htx : s.mac.mode = .tx)
    (hfree : 0 < s.mac.remain.toNat → s.mac.sp.length ≠ s.params.spCap) : MacInv s.finishBlock := by
  unfold State.finishBlock
  split
  · next hleft => exact hs.putSubPdu htx (hfree hleft) (by omega) _ _ _
  · exact hs

theorem initTx (hs : MacInv s) (dir : Dir) {tbLen : Word} (hcap : tbLen.toNat ≤ s.params.tbCap) :
    MacInv { s with mac := { mode := .tx, dir := dir, tbLen := tbLen, remain := tbLen, woff := 0, sp := [] } } where
  noParse := hs.noParse
  tableFits := Nat.zero_le _
  idle := nofun
  rx := nofun
  rxDone := nofun
  tx _ := ⟨Nat.zero_add _, hcap⟩

theorem initRx (hs : MacInv s) (dir : Dir) :
    MacInv { s with mac := { mode := .rx, dir := dir, tbLen := 0, remain := 0, woff := 0, sp := [] } } where
  noParse := hs.noParse
  tableFits := Nat.zero_le _
  idle := nofun
  rx _ := ⟨rfl, rfl, rfl, rfl⟩
  rxDone := nofun
  tx := nofun

theorem commitParse (hs : MacInv s) (hrx : s.mac.mode = .rx) {c : Cursor} (hlist : c.list.length ≤ s.params.spCap)
    (hlen : c.len < 2 ^ 32) (hcap : c.len ≤ s.params.tbCap) : MacInv (s.commitParse c) where
  noParse := Nat.le_refl 0
  tableFits := hlist
  idle := nofun
  rx := nofun
  rxDone _ := by
    obtain ⟨-, hremain, hwoff, -⟩ := hs.rx hrx
    exact ⟨hremain, hwoff, (toNat_word_of_lt hlen).trans_le hcap⟩
  tx := nofun

theorem macUnpack (hs : MacInv s) (len : Word) : NextHas MacInv (execMacUnpack len s) := by
  refine ignoresCompletion.command hs (.require fun hrx => .require fun hcap => ?_)
  split
  · exact .raise _
  · next hloop =>
    obtain ⟨hlist, hlen⟩ := State.parseLoop_fits (Nat.zero_le _) hloop
    exact .ok (hs.commitParse hrx hlist (hlen ▸ len.isLt) (hlen ▸ hcap))

theorem parseSubHeader (hs : MacInv s) (h : SubHeader) : NextHas MacInv (.next (s.parseSubHeader h)) :=
  .next ((State.parseSubHeader_of_no_parse hs.noParse h).symm ▸ hs)

theorem of_frame {i : Instr} (hi : i.writesMac = false) (hs : MacInv s) : NextHas MacInv (exec i s) := by
  intro t ht
  have hframe := Frame.of_exec i s t ht
  obtain ⟨hmac, hcursor⟩ := hframe.mac hi
  exact hs.of_eq hframe.params hcursor hmac

theorem of_exec (i : Instr) (s : State) (hs : MacInv s) : NextHas MacInv (exec i s) := by
  cases i with
  | sysReset => exact .next (of_released (Nat.le_refl 0) s.softReset_mac)
  | macInitTx dir tbLen => exact ignoresCompletion.command hs (.require fun hcap => .ok (hs.initTx dir hcap))
  | macInitRx dir => exact ignoresCompletion.command hs (.ok (hs.initRx dir))
  | macAddSdu lcid len addr =>
    exact ignoresCompletion.command hs
      (.require fun htx => .require fun _ => .require fun _ => hs.append htx _ _ _ _ _)
  | macAddCrntiCe rnti => exact ignoresCompletion.command hs (hs.appendCe _ _ _)
  | macAddSePhrCe phr pcmax => exact ignoresCompletion.command hs (hs.appendCe _ _ _)
  | macAddSbsrCe lcg bs => exact ignoresCompletion.command hs (hs.appendCe _ _ _)
  | macAddConresCe id => exact ignoresCompletion.command hs (hs.appendCe _ _ _)
  | macPack =>
    exact ignoresCompletion.command hs
      (.require fun htx => .require fun hfree => .ok ((hs.finishBlock htx hfree).of_eq rfl rfl rfl))
  | macUnpack len => exact hs.macUnpack len
  | macRelease => exact ignoresCompletion.command hs (.ok (of_released hs.noParse rfl))
  | subhdr1B r f lcid => exact hs.parseSubHeader _
  | subhdr2B r lcid len => exact hs.parseSubHeader _
  | subhdr3B r lcid len => exact hs.parseSubHeader _
  | _ => exact of_frame rfl hs

end Sys2Proof.Safety.MacInv

namespace Sys2Proof.Machine

open Safety

/-- Settles O32: a command that writes MACU leaves a consistent session, every other command leaves MACU alone, and with no
parse in progress no step begins one. -/
theorem stepKeepsMacuRegisters : Obligations.StepKeepsMacuRegisters :=
  MacInv.ignoresCompletion.step (fun _ _ hs => hs.of_eq rfl rfl rfl) MacInv.of_exec

end Sys2Proof.Machine
end

section
/-! RBAU along a step (41_rb_allocator.md R160 to R162, 10_state.md R38, R52, R54): the arithmetic of the geometry first, then
each command that writes RBAU. -/

namespace Sys2Proof.Machine

/-! ### The arithmetic of the geometry -/

theorem rbgP_bounds (n : Nat) (cfg : RbgConfig) : 0 < rbgP n cfg ∧ rbgP n cfg ≤ 16 := by
  have hmem := rbgP_mem n cfg
  simp only [List.mem_cons, List.not_mem_nil, or_false] at hmem
  omega

/-- A BWP inside the carrier has between 1 and `MAX_RBG` RBGs: the nominal size grows with the BWP (R160, R161). -/
theorem ceilDiv_rbgP_bounds {n : Nat} (hlo : 1 ≤ n) (hhi : n ≤ 275) (cfg : RbgConfig) (start : Nat) :
    1 ≤ ceilDiv (n + start % rbgP n cfg) (rbgP n cfg) ∧ ceilDiv (n + start % rbgP n cfg) (rbgP n cfg) ≤ 19 := by
  unfold ceilDiv rbgP
  cases cfg <;> (repeat' split) <;> omega

/-- The RBG of a PRB, written without `first` (R161). -/
theorem prbToRbg_first {p : Nat} (hp : 0 < p) (start i : Nat) :
    prbToRbg p (p - start % p) i = (i + start % p) / p := by
  have := Nat.mod_lt start hp
  unfold prbToRbg
  congr 1
  omega

/-- A PRB of the BWP lies in one of its RBGs. -/
theorem div_lt_ceilDiv {p i n : Nat} (hp : 0 < p) (hi : i < n) (x : Nat) : (i + x) / p < ceilDiv (n + x) p := by
  unfold ceilDiv
  calc (i + x) / p < (i + x) / p + 1 := Nat.lt_succ_self _
    _ = (i + x + p) / p := (Nat.add_div_right _ hp).symm
    _ ≤ (n + x + p - 1) / p := Nat.div_le_div_right (by omega)

/-- The RBGs are disjoint: a PRB of RBG `g` has no other RBG (R161). -/
theorem prbToRbg_of_mem_rbgPrbs {n p first g i : Nat} (hle : first ≤ p) (hi : i ∈ rbgPrbs n p first g) :
    prbToRbg p first i = g := by
  obtain ⟨hlo, hhi⟩ := mem_rbgPrbs.mp hi
  unfold rbgHi at hhi
  unfold rbgLo at hlo
  unfold prbToRbg
  cases g with
  | zero => exact Nat.div_eq_of_lt (by omega)
  | succ k =>
    simp only [Nat.succ_ne_zero, if_false, Nat.add_sub_cancel, Nat.succ_mul] at hlo hhi
    apply Nat.div_eq_of_lt_le
    · rw [Nat.succ_mul]; omega
    · rw [Nat.succ_mul, Nat.succ_mul]; omega

/-- The interval that a type-1 field encodes lies in the BWP (42_grant_codec.md R197). -/
theorem rivInverse_le {n v : Nat} (hv : v < rivCount n) : (rivInverse n v).1 + (rivInverse n v).2 ≤ n := by
  unfold rivCount at hv
  obtain rfl | hn := Nat.eq_zero_or_pos n
  · omega
  · have hdiv := Nat.div_add_mod v n
    have hmod := Nat.mod_lt v hn
    have hq : v / n < n := by
      by_contra hge
      have hsq : n * n ≤ n * (v / n) := Nat.mul_le_mul_left n (by omega)
      have hself : n ≤ n * n := Nat.le_mul_of_pos_left n hn
      rw [Nat.mul_succ] at hv
      omega
    unfold rivInverse
    dsimp only
    split
    · next hfit => exact (Nat.add_comm _ _).trans_le hfit
    · dsimp only; omega

end Sys2Proof.Machine

namespace Sys2Proof.Safety.RbInv

open Sys2Proof.Machine

variable {s t : State}

theorem ignoresCompletion : IgnoresCompletion RbInv := fun _ _ _ _ h => { h with }

/-- Whether the invariant holds is a matter of RBAU alone. -/
theorem of_eq (hs : RbInv s) (hrb : t.rb = s.rb) : RbInv t where
  unset := by rw [hrb]; exact hs.unset
  bwp := by rw [hrb]; exact hs.bwp
  p := by rw [hrb]; exact hs.p
  first := by rw [hrb]; exact hs.first
  nrbg := by rw [hrb]; exact hs.nrbg
  rbgCount := by rw [hrb]; exact hs.rbgCount
  prbTop := by rw [hrb]; exact hs.prbTop
  rbgTop := by rw [hrb]; exact hs.rbgTop
  consistent := by rw [hrb]; exact hs.consistent
  interval := by rw [hrb]; exact hs.interval

/-- RBAU at reset: no BWP, no bit set, an empty interval (10_state.md R62). -/
theorem of_reset (hrb : t.rb = Rb.reset) : RbInv t :=
  of_eq (s := { t with rb := Rb.reset })
    { unset := fun _ => rfl
      bwp := fun h => absurd rfl h
      p := fun h => absurd rfl h
      first := fun h => absurd rfl h
      nrbg := fun h => absurd rfl h
      rbgCount := fun h => absurd rfl h
      prbTop := fun _ _ => BitVec.getLsbD_zero
      rbgTop := fun _ _ => BitVec.getLsbD_zero
      consistent := fun _ h => nomatch BitVec.getLsbD_zero.symm.trans h
      interval := fun _ _ h => by
        obtain ⟨rfl, rfl⟩ := Grant.type1.inj h
        decide }
    hrb

/-! ### The geometry of an initialised RBAU -/

theorem ready_ne_zero (hset : s.rbReady) : s.rb.nprb ≠ 0 := fun h => hset (congrArg BitVec.toNat h)

theorem nprb_le (hs : RbInv s) (hset : s.rbReady) : s.rb.nprb.toNat ≤ 275 :=
  (Nat.le_add_left _ _).trans (hs.bwp (ready_ne_zero hset))

theorem p_pos (hs : RbInv s) (hset : s.rbReady) : 0 < s.rb.p.toNat := by
  rw [hs.p (ready_ne_zero hset)]
  exact (rbgP_bounds _ _).1

theorem first_le (hs : RbInv s) (hset : s.rbReady) : s.rb.first.toNat ≤ s.rb.p.toNat := by
  rw [hs.first (ready_ne_zero hset)]
  exact Nat.sub_le _ _

theorem toRbg_lt (hs : RbInv s) (hset : s.rbReady) {i : Nat} (hi : i < s.rb.nprb.toNat) :
    s.rb.toRbg i < s.rb.nrbg.toNat := by
  unfold Rb.toRbg
  rw [hs.nrbg (ready_ne_zero hset), hs.first (ready_ne_zero hset), prbToRbg_first (hs.p_pos hset)]
  exact div_lt_ceilDiv (hs.p_pos hset) hi _

theorem nrbg_le (hs : RbInv s) (hset : s.rbReady) : s.rb.nrbg.toNat ≤ 19 := (hs.rbgCount (ready_ne_zero hset)).2

/-! ### The commands that write RBAU -/

/-- New bitmaps under the same geometry. -/
theorem bitmaps (hs : RbInv s) (hset : s.rbReady) {prbs : BitVec 275} {rbgs : BitVec 19}
    (hprbs : ∀ i, s.rb.nprb.toNat ≤ i → prbs.getLsbD i = false)
    (hrbgs : ∀ g, s.rb.nrbg.toNat ≤ g → rbgs.getLsbD g = false)
    (hboth : ∀ i, prbs.getLsbD i = true → rbgs.getLsbD (s.rb.toRbg i) = true) :
    RbInv { s with rb := { s.rb with prbs := prbs, rbgs := rbgs } } :=
  { hs with
    unset := fun h => absurd h (ready_ne_zero hset)
    prbTop := hprbs
    rbgTop := hrbgs
    consistent := hboth }

/-- A new grant, which is an interval of the carrier if it is one (10_state.md R54). -/
theorem grant (hs : RbInv s) {gr : Grant}
    (hgr : ∀ start stop, gr = .type1 start stop → start.toNat ≤ stop.toNat ∧ stop.toNat ≤ 275) :
    RbInv { s with rb := { s.rb with gr := gr } } :=
  { hs with interval := hgr }

theorem clear (hs : RbInv s) (hset : s.rbReady) : RbInv { s with rb := s.rb.clear } :=
  hs.bitmaps hset (fun _ _ => BitVec.getLsbD_zero) (fun _ _ => BitVec.getLsbD_zero)
    fun _ h => nomatch BitVec.getLsbD_zero.symm.trans h

/-- Every PRB of the interval has its RBG inside the BWP, and that RBG is set (R167). -/
theorem addInterval (hs : RbInv s) (hset : s.rbReady) (start : Nat) {stop : Nat} (hstop : stop ≤ s.rb.nprb.toNat) :
    RbInv { s with rb := s.rb.addInterval start stop } := by
  have hin : ∀ i ∈ List.range' start (stop - start), i < s.rb.nprb.toNat := fun i hi => by
    have := List.mem_range'_1.mp hi
    omega
  refine hs.bitmaps hset (fun i hi => ?_) (fun g hg => ?_) fun i hi => ?_
  · have hout : i ∉ List.range' start (stop - start) := fun hmem => absurd (hin i hmem) (by omega)
    rw [getLsbD_setBits, hs.prbTop i hi, decide_eq_false hout, Bool.and_false, Bool.or_false]
  · have hout : g ∉ (List.range' start (stop - start)).map s.rb.toRbg := fun hmem => by
      obtain ⟨i, hi, rfl⟩ := List.mem_map.mp hmem
      exact absurd (hs.toRbg_lt hset (hin i hi)) (by omega)
    rw [getLsbD_setBits, hs.rbgTop g hg, decide_eq_false hout, Bool.and_false, Bool.or_false]
  · simp only [getLsbD_setBits, Bool.or_eq_true, Bool.and_eq_true, decide_eq_true_eq] at hi ⊢
    obtain hold | ⟨-, hnew⟩ := hi
    · exact .inl (hs.consistent i hold)
    · have := hs.toRbg_lt hset (hin i hnew)
      have := hs.nrbg_le hset
      exact .inr ⟨by omega, List.mem_map_of_mem hnew⟩

/-- Every PRB set is in an RBG of the mask, which is its only RBG (R169). -/
theorem addRbgs (hs : RbInv s) (hset : s.rbReady) (mask : BitVec 19) : RbInv { s with rb := s.rb.addRbgs mask } := by
  refine hs.bitmaps hset (fun i hi => ?_) (fun g hg => ?_) fun i hi => ?_
  · have hout : i ∉ (s.rb.maskRbgs mask).flatMap (rbgPrbs s.rb.nprb.toNat s.rb.p.toNat s.rb.first.toNat) := fun hmem => by
      obtain ⟨g, -, hg⟩ := List.mem_flatMap.mp hmem
      have := (mem_rbgPrbs.mp hg).2
      unfold rbgHi at this
      omega
    rw [getLsbD_setBits, hs.prbTop i hi, decide_eq_false hout, Bool.and_false, Bool.or_false]
  · have hout : g ∉ s.rb.maskRbgs mask := fun hmem => absurd (Rb.mem_maskRbgs.mp hmem).1 (by omega)
    rw [getLsbD_setBits, hs.rbgTop g hg, decide_eq_false hout, Bool.and_false, Bool.or_false]
  · simp only [getLsbD_setBits, Bool.or_eq_true, Bool.and_eq_true, decide_eq_true_eq] at hi ⊢
    obtain hold | ⟨-, hnew⟩ := hi
    · exact .inl (hs.consistent i hold)
    · obtain ⟨g, hmask, hg⟩ := List.mem_flatMap.mp hnew
      have hrbg : s.rb.toRbg i = g := prbToRbg_of_mem_rbgPrbs (hs.first_le hset) hg
      have := (Rb.mem_maskRbgs.mp hmask).1
      have := hs.nrbg_le hset
      exact .inr ⟨by omega, hrbg ▸ hmask⟩

theorem addGrant (hs : RbInv s) (hset : s.rbReady) {gr : Grant} (hfit : s.rb.grantFits gr = true) :
    RbInv { s with rb := s.rb.addGrant gr } := by
  cases gr with
  | type0 mask => exact hs.addRbgs hset mask
  | type1 start stop => exact hs.addInterval hset start.toNat (of_decide_eq_true hfit)

/-- The geometry of a BWP inside the carrier fits its registers (R163). -/
theorem init (hs : RbInv s) (cfg : RbgConfig) {start n : Nat} (hlo : 1 ≤ n) (hin : start + n ≤ 275) :
    RbInv { s with rb := s.rb.init cfg start n } := by
  obtain ⟨hp, hp16⟩ := rbgP_bounds n cfg
  obtain ⟨hcount, hcount19⟩ := ceilDiv_rbgP_bounds hlo (by omega) cfg start
  have hmod := Nat.mod_lt start hp
  have hnprb : (s.rb.init cfg start n).nprb.toNat = n := by
    rw [Rb.init_nprb, BitVec.toNat_ofNat, Nat.mod_eq_of_lt (by omega)]
  have hstart : (s.rb.init cfg start n).start.toNat = start := by
    rw [Rb.init_start, BitVec.toNat_ofNat, Nat.mod_eq_of_lt (by omega)]
  have hpn : (s.rb.init cfg start n).p.toNat = rbgP n cfg := by
    rw [Rb.init_p, BitVec.toNat_ofNat, Nat.mod_eq_of_lt (by omega)]
  have hfirst : (s.rb.init cfg start n).first.toNat = rbgP n cfg - start % rbgP n cfg := by
    rw [Rb.init_first, BitVec.toNat_ofNat, Nat.mod_eq_of_lt (by omega)]
  have hnrbg : (s.rb.init cfg start n).nrbg.toNat = ceilDiv (n + start % rbgP n cfg) (rbgP n cfg) := by
    rw [Rb.init_nrbg, BitVec.toNat_ofNat, Nat.mod_eq_of_lt (by omega)]
  exact
    { unset := fun h => absurd (congrArg BitVec.toNat h) (by rw [hnprb]; exact Nat.ne_of_gt hlo)
      bwp := fun _ => by rw [hstart, hnprb]; exact hin
      p := fun _ => by rw [hpn, hnprb, Rb.init_cfg]
      first := fun _ => by rw [hfirst, hpn, hstart]
      nrbg := fun _ => by rw [hnrbg, hnprb, hpn, hstart]
      rbgCount := fun _ => by rw [hnrbg]; exact ⟨hcount, hcount19⟩
      prbTop := fun _ _ => BitVec.getLsbD_zero
      rbgTop := fun _ _ => BitVec.getLsbD_zero
      consistent := fun _ h => nomatch BitVec.getLsbD_zero.symm.trans h
      interval := hs.interval }

theorem grantSetInterval (hs : RbInv s) {start stop : Nat} (hle : start ≤ stop) (hcarrier : stop ≤ 275) :
    RbInv { s with rb := { s.rb with gr := .type1 (BitVec.ofNat 9 start) (BitVec.ofNat 9 stop) } } :=
  hs.grant fun a b h => by
    obtain ⟨rfl, rfl⟩ := Grant.type1.inj h
    rw [BitVec.toNat_ofNat, BitVec.toNat_ofNat, Nat.mod_eq_of_lt (by omega), Nat.mod_eq_of_lt (by omega)]
    exact ⟨hle, hcarrier⟩

theorem decodeGrant (hs : RbInv s) (hset : s.rbReady) {type : AllocType} {field : Nat}
    (hfield : s.rb.decodable type field = true) :
    RbInv { s with rb := { s.rb with gr := s.rb.decodeGrant type field } } := by
  cases type with
  | type0 => exact hs.grant nofun
  | type1 =>
    exact hs.grantSetInterval (Nat.le_add_right _ _) ((rivInverse_le (of_decide_eq_true hfield)).trans (hs.nprb_le hset))

theorem of_exec (i : Instr) (s : State) (hs : RbInv s) : NextHas RbInv (exec i s) := by
  cases i with
  | sysReset => exact .next (of_reset s.softReset_rb)
  | rbInit cfg start n =>
    exact ignoresCompletion.command hs (.require fun ⟨hlo, _, hin⟩ => .ok (hs.init cfg hlo hin))
  | rbClear => exact ignoresCompletion.command hs (.require fun hset => .ok (hs.clear hset))
  | rbAddInterval start stop =>
    exact ignoresCompletion.command hs
      (.require fun hset => .require fun ⟨_, hstop⟩ => .ok (hs.addInterval hset start.toNat hstop))
  | rbAddRbgs mask =>
    exact ignoresCompletion.command hs (.require fun hset => .require fun _ => .ok (hs.addRbgs hset mask))
  | rbAddGrant =>
    exact ignoresCompletion.command hs (.require fun hset => .require fun hfit => .ok (hs.addGrant hset hfit))
  | rbGrantSetInterval start stop =>
    exact ignoresCompletion.command hs (.require fun ⟨hle, hcarrier⟩ => .ok (hs.grantSetInterval hle hcarrier))
  | rbGrantSetRbgs mask => exact ignoresCompletion.command hs (.ok (hs.grant nofun))
  | rbGrantDecode type field =>
    exact ignoresCompletion.command hs (.require fun hset => .require fun hfield => .ok (hs.decodeGrant hset hfield))
  | _ => exact fun t ht => hs.of_eq ((Frame.of_exec _ s t ht).rb rfl)

end Sys2Proof.Safety.RbInv

namespace Sys2Proof.Machine

open Safety

/-- Settles O44: the commands that write RBAU keep the geometry derived and the bitmaps consistent, and every other command
leaves RBAU alone. -/
theorem stepKeepsBitmapsConsistent : Obligations.StepKeepsBitmapsConsistent :=
  RbInv.ignoresCompletion.step (fun _ _ hs => hs.of_eq rfl) RbInv.of_exec

end Sys2Proof.Machine
end

section
/-! UCIU along a step (10_state.md R26, R46, R48). The position lists of R283 hold exactly the indices below `G_tot`, so the
positions fit their memories, and `UCI.MUX` defines every element of `GOUT` that `UCI.SCRAMBLE` reads. -/

namespace Sys2Proof.Machine

/-! ### The position lists hold exactly the coded-bit indices (45_uci_mux.md R282, R283) -/

/-- Index `x` is in one of the four lists. -/
def MuxLists.Holds (p : MuxLists) (x : Nat) : Prop := x ∈ p.pa ∨ x ∈ p.p1 ∨ x ∈ p.p2 ∨ x ∈ p.pu

theorem mem_symbolIndices {base k m : Nat} {cat : Nat → Category} {c : Category} {x : Nat} :
    x ∈ symbolIndices base k m cat c ↔ ∃ j, j < m ∧ cat j = c ∧ ∃ b, b < k ∧ x = base + j * k + b := by
  simp only [symbolIndices, reIndices, List.mem_flatMap, List.mem_filter, List.mem_map, List.mem_range,
    decide_eq_true_eq, and_assoc, @eq_comm _ _ x]

/-- The indices of the resource elements of a symbol are those of the symbol (R282). -/
theorem exists_element_iff {base k m x : Nat} :
    (∃ j, j < m ∧ ∃ b, b < k ∧ x = base + j * k + b) ↔ base ≤ x ∧ x < base + k * m := by
  constructor
  · rintro ⟨j, hj, b, hb, rfl⟩
    have hend : (j + 1) * k ≤ m * k := Nat.mul_le_mul_right k hj
    rw [Nat.succ_mul, Nat.mul_comm m k] at hend
    omega
  · rintro ⟨hlo, hhi⟩
    have hoff : x - base < m * k := by rw [Nat.mul_comm]; omega
    have hk : 0 < k := Nat.pos_of_mul_pos_left (Nat.zero_lt_of_lt hoff)
    have hdiv := Nat.div_add_mod' (x - base) k
    exact ⟨(x - base) / k, (Nat.div_lt_iff_lt_mul hk).mpr hoff, (x - base) % k, Nat.mod_lt _ hk, by omega⟩

/-- Whatever the categories are, assigning a symbol adds all its indices and no others. -/
theorem holds_assignSymbol (a : MuxAcc) (k m : Nat) (cat : Nat → Category) (x : Nat) :
    (assignSymbol a k m cat).Holds x ↔ a.lists.Holds x ∨ (a.base ≤ x ∧ x < a.base + k * m) := by
  rw [← exists_element_iff]
  simp only [MuxLists.Holds, assignSymbol, List.mem_append, mem_symbolIndices]
  constructor
  · rintro ((h | ⟨j, hj, -, h⟩) | (h | ⟨j, hj, -, h⟩) | (h | ⟨j, hj, -, h⟩) | (h | ⟨j, hj, -, h⟩))
    · exact .inl (.inl h)
    · exact .inr ⟨j, hj, h⟩
    · exact .inl (.inr (.inl h))
    · exact .inr ⟨j, hj, h⟩
    · exact .inl (.inr (.inr (.inl h)))
    · exact .inr ⟨j, hj, h⟩
    · exact .inl (.inr (.inr (.inr h)))
    · exact .inr ⟨j, hj, h⟩
  · rintro ((h | h | h | h) | ⟨j, hj, h⟩)
    · exact .inl (.inl h)
    · exact .inr (.inl (.inl h))
    · exact .inr (.inr (.inl (.inl h)))
    · exact .inr (.inr (.inr (.inl h)))
    · cases hcat : cat j with
      | ack => exact .inl (.inr ⟨j, hj, hcat, h⟩)
      | csi1 => exact .inr (.inl (.inr ⟨j, hj, hcat, h⟩))
      | csi2 => exact .inr (.inr (.inl (.inr ⟨j, hj, hcat, h⟩)))
      | ulsch => exact .inr (.inr (.inr (.inr ⟨j, hj, hcat, h⟩)))

/-- A symbol moves `base` past its indices and adds them to the lists. -/
theorem muxSymbol_spec (c : MuxConfig) (a : MuxAcc) (l m mu : Nat) :
    (muxSymbol c a l m mu).base = a.base + c.k * m
      ∧ ∀ x, (muxSymbol c a l m mu).lists.Holds x ↔ a.lists.Holds x ∨ (a.base ≤ x ∧ x < a.base + c.k * m) := by
  unfold muxSymbol
  split
  · next hm =>
      rw [hm, Nat.mul_zero, Nat.add_zero]
      exact ⟨rfl, fun x => (or_iff_left (by omega)).symm⟩
  · split
    · exact ⟨rfl, holds_assignSymbol a c.k m _⟩
    · exact ⟨rfl, holds_assignSymbol a c.k m _⟩

/-- The loop of R283 over the first `n` symbols. -/
def Uci.muxPasses (u : Uci) (n : Nat) : MuxAcc :=
  (List.range n).foldl (fun a l => muxSymbol u.config a l (u.mscAt l) (u.muciAt l)) ⟨0, 0, ⟨[], [], [], []⟩⟩

theorem Uci.muxPasses_succ (u : Uci) (n : Nat) :
    u.muxPasses (n + 1) = muxSymbol u.config (u.muxPasses n) n (u.mscAt n) (u.muciAt n) := by
  rw [Uci.muxPasses, List.range_succ, List.foldl_append]
  rfl

theorem Uci.muxPasses_spec (u : Uci) (n : Nat) :
    (u.muxPasses n).base = u.config.k * ((List.range n).map u.mscAt).sum
      ∧ ∀ x, (u.muxPasses n).lists.Holds x ↔ x < (u.muxPasses n).base := by
  induction n with
  | zero => exact ⟨rfl, fun x => by simp [Uci.muxPasses, MuxLists.Holds]⟩
  | succ n ih =>
    obtain ⟨hbase, hholds⟩ := ih
    obtain ⟨hnext, hadded⟩ := muxSymbol_spec u.config (u.muxPasses n) n (u.mscAt n) (u.muciAt n)
    rw [Uci.muxPasses_succ]
    refine ⟨?_, fun x => ?_⟩
    · rw [hnext, hbase, List.range_succ, List.map_append, List.sum_append, List.map_singleton, List.sum_singleton,
        Nat.mul_add]
    · rw [hadded, hholds, hnext]
      omega

/-- The lists of R283 partition the indices below `G_tot`. -/
theorem Uci.holds_muxLoop (u : Uci) (x : Nat) : u.muxLoop.lists.Holds x ↔ x < u.codedBits := by
  obtain ⟨hbase, hholds⟩ := u.muxPasses_spec Config.nSymb
  exact (hholds x).trans (by rw [hbase]; rfl)

/-- What a successful position generation says: the configuration is legal, the lists are the loop's and have the target
lengths (R283). -/
theorem Uci.genMux_ok {u : Uci} {gCap : Nat} {p : MuxLists} (h : u.genMux gCap = .ok p) :
    u.configLegal gCap = true ∧ p = u.muxLoop.lists ∧ p.meets u.config = true := by
  unfold Uci.genMux at h
  split at h
  · cases h
  · next hlegal =>
    split at h
    · cases h
    · split at h
      · next hmeets =>
        obtain rfl := Except.ok.inj h
        exact ⟨by simpa using hlegal, rfl, hmeets⟩
      · cases h

/-- `G_tot` of a legal configuration fits its register, whatever the capacity: at most 32 bits for each of `14 * 65535`
resource elements. -/
theorem Uci.codedBits_lt {u : Uci} {gCap : Nat} (h : u.configLegal gCap = true) : u.codedBits < 2 ^ 32 := by
  have hk : u.config.k ≤ 4 * 8 := by
    simp only [Uci.configLegal, Bool.and_eq_true, decide_eq_true_eq, List.contains_iff_mem, List.mem_cons,
      List.not_mem_nil, or_false, and_assoc] at h
    obtain ⟨-, hnl, hqm, -⟩ := h
    exact Nat.mul_le_mul hnl (by omega)
  have hre : u.reTotal ≤ 14 * 65535 := by
    have hsum := List.sum_le_card_nsmul ((List.range Config.nSymb).map u.mscAt) 65535 fun x hx => by
      obtain ⟨l, -, rfl⟩ := List.mem_map.mp hx
      exact Nat.le_of_lt_succ (u.msc[l]?.getD 0).isLt
    rwa [List.length_map, List.length_range] at hsum
  calc u.codedBits ≤ 4 * 8 * (14 * 65535) := Nat.mul_le_mul hk hre
    _ < 2 ^ 32 := by decide

/-- A position memory holds exactly the list it was given, if the positions fit its elements. -/
theorem Bank.get_ofList_words {l : List Nat} (h : ∀ x ∈ l, x < 2 ^ 32) (m : Nat) :
    ((Bank.ofList (l.map word)).get m).map BitVec.toNat = l[m]? := by
  rw [Bank.get_ofList, List.getElem?_map]
  cases hm : l[m]? with
  | none => rfl
  | some x => exact congrArg some (toNat_word_of_lt (h x (List.mem_of_getElem? hm)))

/-! ### What `UCI.MUX` writes (45_uci_mux.md R292) -/

/-- An element has a definite value after a list of writes if it had one, or if one of the writes was to it. -/
theorem Bank.isSome_get_setAll {w : Nat} {xs : List (Nat × BitVec w)} {b : Bank w} {a : Nat}
    (h : (b.get a).isSome = true ∨ a ∈ xs.map Prod.fst) : ((b.setAll xs).get a).isSome = true := by
  induction xs generalizing b with
  | nil => exact h.resolve_right List.not_mem_nil
  | cons x xs ih =>
    refine ih (b := b.set x.1 x.2) ?_
    rw [Bank.get_set]
    split
    · exact .inl rfl
    · next hne => exact h.imp_right fun hmem => (List.mem_cons.mp hmem).resolve_left hne

/-- The symbols of a category go to the positions of its list. -/
theorem State.map_fst_stream {s : State} {pos : Space} {l : List Nat} {n : Nat} (src : Space)
    (hpos : ∀ m, s.peek pos m = l[m]?) (hn : l.length = n) : (s.stream pos src n).map Prod.fst = l := by
  apply List.ext_getElem
  · simp [State.stream, hn]
  · intro m hm hlt
    have hread : s.read pos m = l[m] := State.readPass_of_peek ((hpos m).trans (List.getElem?_eq_getElem hlt))
    simpa [State.stream] using hread

/-! ### What `UCI.SCRAMBLE` writes (45_uci_mux.md R296) -/

theorem State.goutAt_lt (s : State) (b : Bank 2) (i : Nat) : s.goutAt b i < 4 := by
  unfold State.goutAt
  cases b.get i with
  | none => exact Nat.mod_lt _ (by decide)
  | some v => exact v.isLt

theorem State.goutAt_of_get {b : Bank 2} {i : Nat} {v : BitVec 2} (s : State) (h : b.get i = some v) :
    s.goutAt b i = v.toNat := by
  rw [State.goutAt, h]
  rfl

/-- Every index gets a bit, if the element before a repetition marker holds one. -/
theorem State.scrambleAt_le_one {s : State} {b : Bank 2} {i : Nat} (h : s.goutAt b i = 3 → s.goutAt b (i - 1) ≤ 1) :
    s.scrambleAt b i ≤ 1 := by
  unfold State.scrambleAt
  split
  · exact Nat.le_refl 1
  · split
    · next hrep => exact h hrep
    · have hbit : s.goutAt b i < 2 ^ 1 := by
        have := s.goutAt_lt b i
        omega
      have hxor : s.goutAt b i ^^^ s.read .scr i < 2 ^ 1 := Nat.xor_lt_two_pow hbit (s.readPass_lt 0 .scr i)
      omega

theorem State.scrambled_succ (s : State) (n : Nat) :
    s.scrambled (n + 1) = (s.scrambled n).set n (BitVec.ofNat 2 (s.scrambleAt (s.scrambled n) n)) := by
  rw [State.scrambled, List.range_succ, List.foldl_append]
  rfl

/-- Ascending from an index 0 that holds no repetition marker, the loop leaves a bit at every index it has passed. -/
theorem State.scrambled_bit {s : State} (hfirst : s.read .gout 0 ≠ 3) (n : Nat) :
    ∀ i, i < n → ∃ v, (s.scrambled n).get i = some v ∧ v.toNat ≤ 1 := by
  induction n with
  | zero => exact fun i hi => absurd hi (Nat.not_lt_zero i)
  | succ n ih =>
    have hbit : s.scrambleAt (s.scrambled n) n ≤ 1 := State.scrambleAt_le_one fun hrep => by
      cases n with
      | zero => exact absurd hrep hfirst
      | succ k =>
        obtain ⟨v, hget, hv⟩ := ih k (Nat.lt_succ_self k)
        exact (s.goutAt_of_get hget).trans_le hv
    intro i hi
    rw [State.scrambled_succ, Bank.get_set]
    split
    · exact ⟨_, rfl, by rw [BitVec.toNat_ofNat, Nat.mod_eq_of_lt (by omega)]; exact hbit⟩
    · exact ih i (by omega)

end Sys2Proof.Machine

namespace Sys2Proof.Safety.UciInv

open Sys2Proof.Machine

variable {s t : State}

theorem ignoresCompletion : IgnoresCompletion UciInv := fun _ _ _ _ h => { h with }

/-- Whether the invariant holds is a matter of the capacities, the registers of UCIU, the position memories and `GOUT`. -/
theorem of_eq (hs : UciInv s) (hparams : t.params = s.params) (huci : t.uci = s.uci)
    (hpos : s.mem.SamePositions t.mem) (hgout : t.mem.gout = s.mem.gout) : UciInv t where
  invalid := by rw [huci]; exact hs.invalid
  positions := by
    simp only [State.peek, huci, hparams, hpos.ack, hpos.csi1, hpos.csi2, hpos.ulsch]
    exact hs.positions
  total := by rw [huci]; exact hs.total
  multiplexed := by
    simp only [State.peek, huci, hgout]
    exact hs.multiplexed
  scrambled := by
    simp only [State.peek, huci, hgout]
    exact hs.scrambled

/-- With nothing valid there is nothing to be honest about. -/
theorem of_invalid (hvalid : t.uci.valid = false) (hgtot : t.uci.gtot = 0) (hgstate : t.uci.gstate = .empty) :
    UciInv t where
  invalid _ := ⟨hgtot, hgstate⟩
  positions h := nomatch hvalid.symm.trans h
  total h := nomatch hvalid.symm.trans h
  multiplexed h := absurd hgstate h
  scrambled h := nomatch hgstate.symm.trans h

theorem hostWrite (hs : UciInv s) {sp : Space} (hsp : sp.hostWritable = true) (a v : Nat) :
    UciInv (s.hostWrite sp a v) := by
  have hframe := Frame.hostWrite (s := s) 0 0 0 hsp a v
  cases sp with
  | msc | muci => exact of_invalid rfl rfl rfl
  | _ => exact hs.of_eq hframe.params rfl (hframe.positions nofun) (hframe.gout nofun nofun)

theorem memWr (hs : UciInv s) (space : BitVec 8) (data : BitVec 16) (addr : Word) :
    NextHas UciInv (execMemWr space data addr s) := by
  refine ignoresCompletion.command hs ?_
  split
  · exact .raise _
  · exact .require fun _ => .require fun hsp => .require fun _ => .require fun _ => .ok (hs.hostWrite hsp _ _)

/-- The position memories hold the new lists, whose indices are below `G_tot` and so fit the elements (R283). -/
theorem putPositions {p : MuxLists} (hgen : s.uci.genMux s.params.gCap = .ok p) (r : Regs) :
    UciInv { s with
      mem := s.mem.putPositions p
      uci := { s.uci with valid := true, gtot := word s.uci.codedBits, gstate := .empty }
      r := r } := by
  obtain ⟨hlegal, hlists, -⟩ := Uci.genMux_ok hgen
  have hlt : ∀ x, p.Holds x → x < 2 ^ 32 := fun x hx =>
    ((s.uci.holds_muxLoop x).mp (hlists ▸ hx)).trans (Uci.codedBits_lt hlegal)
  exact
    { invalid := nofun
      positions := fun _ => ⟨p, hgen,
        Bank.get_ofList_words fun x hx => hlt x (.inl hx),
        Bank.get_ofList_words fun x hx => hlt x (.inr (.inl hx)),
        Bank.get_ofList_words fun x hx => hlt x (.inr (.inr (.inl hx))),
        Bank.get_ofList_words fun x hx => hlt x (.inr (.inr (.inr hx)))⟩
      total := fun _ => toNat_word_of_lt (Uci.codedBits_lt hlegal)
      multiplexed := fun h => absurd rfl h
      scrambled := nofun }

theorem uciGenMux (hs : UciInv s) : NextHas UciInv (execUciGenMux s) := by
  refine ignoresCompletion.command hs ?_
  split
  · exact .raise _
  · next hgen => exact .ok (putPositions hgen _)

theorem meetsTargets_of_meets {p : MuxLists} (h : p.meets s.uci.config = true) : MeetsTargets s p := by
  simp only [MuxLists.meets, Bool.and_eq_true, decide_eq_true_eq, and_assoc] at h
  exact h

/-- With valid positions the streams of the four categories reach every index below `G_tot` (R292). -/
theorem mem_muxStream (hs : UciInv s) (hvalid : s.uci.valid = true) {i : Nat} (hi : i < s.uci.gtot.toNat) :
    i ∈ s.muxStream.map Prod.fst := by
  obtain ⟨p, hgen, hack, hcsi1, hcsi2, hulsch⟩ := hs.positions hvalid
  obtain ⟨-, hlists, hmeets⟩ := Uci.genMux_ok hgen
  obtain ⟨nack, ncsi1, ncsi2, nulsch⟩ := meetsTargets_of_meets hmeets
  have hstream : s.muxStream.map Prod.fst = p.pa ++ p.p1 ++ p.p2 ++ p.pu := by
    simp only [State.muxStream, List.map_append, State.map_fst_stream .bAck hack nack,
      State.map_fst_stream .bCsi1 hcsi1 ncsi1, State.map_fst_stream .bCsi2 hcsi2 ncsi2,
      State.map_fst_stream .bUlsch hulsch nulsch]
  have hholds : p.Holds i := hlists ▸ (s.uci.holds_muxLoop i).mpr (hs.total hvalid ▸ hi)
  simp only [hstream, List.mem_append, or_assoc]
  exact hholds

theorem uciMux (hs : UciInv s) : NextHas UciInv (execUciMux s) :=
  ignoresCompletion.command hs <| .require fun hvalid => .require fun _ =>
    .ok { invalid := fun h => nomatch hvalid.symm.trans h
          positions := hs.positions
          total := hs.total
          multiplexed := fun _ i hi => by
            simpa only [State.peek, Option.isSome_map] using Bank.isSome_get_setAll (.inr (hs.mem_muxStream hvalid hi))
          scrambled := nofun }

theorem uciScramble (hs : UciInv s) : NextHas UciInv (execUciScramble s) :=
  ignoresCompletion.command hs <| .require fun ⟨hvalid, _⟩ => .require fun hplain => by
    have hbit : ∀ i, i < s.uci.gtot.toNat → ∃ v, (s.scrambled s.uci.gtot.toNat).get i = some v ∧ v.toNat ≤ 1 :=
      fun i hi => State.scrambled_bit (fun hrep => hplain ⟨Nat.zero_lt_of_lt hi, hrep⟩) _ i hi
    exact .ok
      { invalid := fun h => nomatch hvalid.symm.trans h
        positions := hs.positions
        total := hs.total
        multiplexed := fun _ i hi => by
          obtain ⟨v, hget, -⟩ := hbit i hi
          simp only [State.peek, hget, Option.map_some, Option.isSome_some]
        scrambled := fun _ i x hi hx => by
          obtain ⟨v, hget, hv⟩ := hbit i hi
          simp only [State.peek, hget, Option.map_some, Option.some.injEq] at hx
          exact hx ▸ hv }

theorem of_exec (i : Instr) (s : State) (hs : UciInv s) : NextHas UciInv (exec i s) := by
  cases i with
  | sysReset => exact .next (of_invalid rfl rfl rfl)
  | csrWr csr value =>
    exact ignoresCompletion.command hs (.require fun _ => .require fun _ => .ok (of_invalid rfl rfl rfl))
  | memWr space data addr => exact hs.memWr space data addr
  | uciGenMux => exact hs.uciGenMux
  | uciMux => exact hs.uciMux
  | uciScramble => exact hs.uciScramble
  | _ =>
    intro t ht
    have hframe := Frame.of_exec _ s t ht
    exact hs.of_eq hframe.params (hframe.uci rfl) (hframe.positions nofun) (hframe.gout nofun nofun)

end Sys2Proof.Safety.UciInv

namespace Sys2Proof.Machine

open Safety

/-- Settles O59: a change of the configuration clears the flags, `UCI.GEN_MUX` sets them with positions that partition
`GOUT`, `UCI.MUX` and `UCI.SCRAMBLE` fill all of it, and every other command leaves all of this alone. -/
theorem stepKeepsUciFlagsHonest : Obligations.StepKeepsUciFlagsHonest :=
  UciInv.ignoresCompletion.step (fun _ _ hs => hs.of_eq rfl rfl (.refl _) rfl) UciInv.of_exec

end Sys2Proof.Machine
end

section
/-! The totality of the step and the count of the commands (60_exceptions.md R321, 10_state.md R24), the reset state (10_state.md
R62, 70_reset_and_hazards.md R350), and what the host can address (20_memory.md R71, R75, R79). -/

namespace Sys2Proof.Machine

/-! ### Every step answers a next state -/

theorem State.complete_cseq (s : State) (res : Result) : (s.complete res).cseq = s.cseq + 1 := by
  cases res <;> rfl

/-- Every command but `SYS.RESET` ends in the completion sequence (R321). -/
theorem exec_eq_complete {i : Instr} (s : State) (hsub : i.isSubHeader = false) (hreset : i ≠ .sysReset) :
    ∃ res, exec i s = .next (s.complete res) := by
  cases i with
  | sysReset => exact absurd rfl hreset
  | subhdr1B | subhdr2B | subhdr3B => cases hsub
  | _ => exact ⟨_, rfl⟩

theorem exec_runs (i : Instr) (s : State) : Safety.Runs (exec i s) := by
  cases i with
  | _ => exact ⟨_, rfl⟩

theorem entry_runs (w : CmdWord) (s : State) : Safety.Runs (entry w s) := by
  obtain ⟨-, -, heq⟩ | ⟨-, -, heq⟩ | ⟨-, i, -, heq⟩ := entry_cases w s
  · exact ⟨_, heq⟩
  · exact ⟨_, heq⟩
  · exact heq ▸ exec_runs i s

theorem stepCommand_runs (s : State) : Safety.Runs (stepCommand s) := by
  unfold stepCommand
  cases s.inbox with
  | nil => exact ⟨s, rfl⟩
  | cons w rest => exact entry_runs w _

theorem step_runs (s : State) : Safety.Runs (step s) := by
  by_cases hparse : s.cursor.off < s.cursor.len
  · obtain ⟨h, -, heq⟩ := stepSubHeader_eq s
    exact ⟨_, (step_of_parse hparse).trans heq⟩
  · exact step_of_no_parse (Nat.le_of_not_lt hparse) ▸ stepCommand_runs s

/-- Settles O11: no meaning faults or refuses, and the completion sequence is where every command but `SYS.RESET` counts. -/
theorem everyStepCompletesAndCounts : Obligations.EveryStepCompletesAndCounts := by
  refine ⟨step_runs, fun i s => ?_⟩
  obtain ⟨t, ht⟩ := exec_runs i s
  refine ⟨t, ht, fun hsub hreset => ?_, fun hreset => ?_⟩
  · obtain ⟨res, heq⟩ := exec_eq_complete s hsub hreset
    obtain rfl := Host.Outcome.next.inj (ht.symm.trans heq)
    rw [State.complete_cseq]
    exact BitVec.toNat_add s.cseq 1
  · subst hreset
    exact (congrArg State.cseq (Host.Outcome.next.inj ht)).symm.trans s.softReset_cseq

/-! ### The reset state -/

/-- Every register the host reads is a matter of these fields; with their reset values they read as R62 says. -/
theorem registersAtReset_of_reset {t : State} (hr : t.r = Regs.reset) (hcseq : t.cseq = 0) (hstatus : t.status = .ok)
    (hfatal : t.fatal = none) (hmac : t.mac = Mac.reset) (hrb : t.rb = Rb.reset) (huci : t.uci = Uci.reset) :
    RegistersAtReset t := by
  refine ⟨hr, congrArg Rb.gr hrb, congrArg Mac.sp hmac, hfatal, ?_, fun a _ => ?_, fun a _ => ?_, fun a ha => ?_⟩
  · unfold State.csrRead
    rw [hcseq, hstatus, hfatal, hmac, hrb, huci]
    decide
  · simp [State.peek, hrb, Rb.reset]
  · simp [State.peek, hrb, Rb.reset]
  · simp [State.peek, huci, Uci.reset, ha]

/-- In memory at reset no element is definite; the four other spaces are registers (20_memory.md R71, R72). -/
theorem State.peek_of_mem_reset {t : State} (hmem : t.mem = Memory.reset) (sp : Space) (a : Nat) (hprbs : sp ≠ .prbs)
    (hrbgs : sp ≠ .rbgs) (hmsc : sp ≠ .msc) (hmuci : sp ≠ .muci) : t.peek sp a = none := by
  cases sp with
  | prbs => exact absurd rfl hprbs
  | rbgs => exact absurd rfl hrbgs
  | msc => exact absurd rfl hmsc
  | muci => exact absurd rfl hmuci
  | _ => simp only [State.peek, hmem]; rfl

/-- Settles O13: both resets and the start of a run set all registers; only the memory spaces tell them apart. -/
theorem resetSetsEveryRegister : Obligations.ResetSetsEveryRegister :=
  ⟨fun s => ⟨s.softReset, rfl, registersAtReset_of_reset rfl rfl rfl rfl rfl rfl rfl, rfl, rfl, rfl, rfl, rfl⟩,
    fun s => ⟨registersAtReset_of_reset rfl rfl rfl rfl rfl rfl rfl, rfl, rfl, rfl, rfl,
      State.peek_of_mem_reset s.hardReset_mem⟩,
    fun _ => rfl, registersAtReset_of_reset rfl rfl rfl rfl rfl rfl rfl, State.peek_of_mem_reset rfl⟩

theorem packInv_reset : Safety.PackInv State.reset where
  offsets := nofun
  written := nofun
  defined := nofun
  padded := nofun
  parses := nofun

theorem capOk_succ (c : Fin 4294967295) : Config.capOk (c.val + 1) := by
  have := c.isLt
  exact ⟨Nat.le_add_left _ _, by omega⟩

/-- Settles O34: with no session, no BWP and nothing valid the invariants ask for nothing more. -/
theorem resetMeetsTheInvariants : Obligations.ResetMeetsTheInvariants :=
  ⟨.of_released (Nat.le_refl 0) rfl, packInv_reset, .of_reset rfl, .of_invalid rfl rfl rfl, Memory.wf_reset,
    capOk_succ _, capOk_succ _, capOk_succ _, capOk_succ _⟩

/-! ### The spaces and the registers the host sees -/

theorem spaceOfId_eq_some_iff {n : Nat} {sp : Space} : spaceOfId n = some sp ↔ sp.id = n := by
  constructor
  · intro h
    unfold spaceOfId at h
    split at h <;> cases h <;> rfl
  · rintro rfl
    cases sp <;> rfl

theorem Space.id_le (sp : Space) : sp.id ≤ 20 := by
  cases sp <;> decide

theorem spaceOfId_of_gt {n : Nat} (h : 21 ≤ n) : spaceOfId n = none := by
  cases hsp : spaceOfId n with
  | none => rfl
  | some sp =>
    have hid := spaceOfId_eq_some_iff.mp hsp
    have := sp.id_le
    omega

theorem word_statusValue (c : Code) : word c.value = statusNumber c := by
  cases c <;> rfl

theorem word_macCtrl (mode : Mode) (dir : Dir) : word (mode.value + 16 * dirValue dir) = macCtrlNumber mode dir := by
  cases mode <;> cases dir <;> rfl

/-- A number outside the table of 10_state.md R28 reads as 0. -/
theorem State.csrRead_of_no_csr (s : State) {n : BitVec 8}
    (h : ¬(n.toNat ≤ 0x03 ∨ (0x10 ≤ n.toNat ∧ n.toNat ≤ 0x14) ∨ (0x20 ≤ n.toNat ∧ n.toNat ≤ 0x26)
      ∨ (0x30 ≤ n.toNat ∧ n.toNat ≤ 0x3D))) : s.csrRead n = 0 := by
  unfold State.csrRead
  split <;> try omega
  rfl

/-- Settles O16: the table of the spaces row by row, then the registers in the order of 10_state.md R28. -/
theorem spacesAndRegistersTheHostSees : Obligations.SpacesAndRegistersTheHostSees := by
  refine ⟨⟨fun _ _ => spaceOfId_eq_some_iff, fun _ => spaceOfId_of_gt, by decide, ?_, ?_, ?_, ?_⟩, fun s => ?_⟩
  · intro sp; cases sp <;> rfl
  · intro sp; cases sp <;> decide
  · intro sp; cases sp <;> rfl
  · intro sp p; cases sp <;> rfl
  have hwide : ∀ {w : Nat} (v : BitVec w), w ≤ 32 → (v.setWidth 32).toNat = v.toNat :=
    fun _ => BitVec.toNat_setWidth_of_le
  refine ⟨⟨rfl, word_statusValue s.status, ?_, rfl⟩,
    ⟨word_macCtrl s.mac.mode s.mac.dir, rfl, rfl, rfl, toNat_word_of_lt⟩,
    ⟨hwide _ (by decide), hwide _ (by decide), ?_, hwide _ (by decide), hwide _ (by decide), hwide _ (by decide), ?_⟩,
    ⟨rfl, rfl, rfl, rfl, rfl, rfl, rfl, rfl, rfl, rfl, rfl⟩, ⟨?_, rfl, ?_⟩, fun _ => s.csrRead_of_no_csr,
    ⟨rfl, rfl, rfl, rfl⟩⟩
  · show word (fatalValue s.fatal) = _
    cases s.fatal with
    | none => rfl
    | some c => cases c <;> rfl
  · show word (cfgValue s.rb.cfg) = _
    cases s.rb.cfg <;> rfl
  · show word s.rb.gr.tag = _
    cases s.rb.gr <;> rfl
  · show word s.uci.valid.toNat = _
    cases s.uci.valid <;> rfl
  · show word s.uci.gstate.value = _
    cases s.uci.gstate <;> rfl

end Sys2Proof.Machine
end

section
/-! What the next step issues (20_memory.md R80, 60_exceptions.md R321, R338). -/

namespace Sys2Proof.Machine

theorem stepCommand_of_nil {s : State} (h : s.inbox = []) : stepCommand s = .next s := by
  simp only [stepCommand, h]

theorem stepCommand_of_cons {s : State} {w : CmdWord} {rest : List CmdWord} (h : s.inbox = w :: rest) :
    stepCommand s = entry w (s.issue rest) := by
  simp only [stepCommand, h]

/-- Past the lock a word that decodes runs its instruction (R321). -/
theorem entry_of_decode {w : CmdWord} {s : State} {i : Instr} (hfree : s.fatal = none ∨ w = resetWord)
    (hdecode : decode w = .ok i) : entry w s = exec i s := by
  obtain ⟨hlock, hw, -⟩ | ⟨-, ⟨e, herror⟩, -⟩ | ⟨-, j, hj, heq⟩ := entry_cases w s
  · obtain hnone | hreset := hfree
    · simp [hnone] at hlock
    · exact absurd hreset hw
  · exact nomatch hdecode.symm.trans herror
  · obtain rfl := Except.ok.inj (hdecode.symm.trans hj)
    exact heq

/-- Settles O5: with no parse in progress the step is that of the command port, and the issue of a word leaves the lock alone. -/
theorem stepRunsTheDecodedCommand : Obligations.StepRunsTheDecodedCommand := by
  intro s hidle
  rw [step_of_no_parse hidle]
  refine ⟨stepCommand_of_nil, fun w rest i hword hfree hdecode => ?_⟩
  calc stepCommand s = entry w (s.issue rest) := stepCommand_of_cons hword
    _ = exec i (s.issue rest) := entry_of_decode hfree hdecode

end Sys2Proof.Machine
end

section
/-! Decoding and encoding (30_encoding.md R100 to R106, R110 to R112): the fields of a command word and of a sub-header, the round
trip in both directions, and the mask and match test of R102. -/

namespace Sys2Proof

open Machine Laws.EncodesItsOpcode

/-! ### Words put together from fields -/

theorem halves_append (m n : Nat) (x : BitVec m) (y : BitVec n) :
    (x ++ y).extractLsb' n m = x ∧ (x ++ y).extractLsb' 0 n = y :=
  ⟨BitVec.extractLsb'_append_eq_left, BitVec.extractLsb'_append_eq_right⟩

theorem append_halves (m n : Nat) (x : BitVec (m + n)) : x.extractLsb' n m ++ x.extractLsb' 0 n = x := by
  rw [BitVec.extractLsb'_append_extractLsb'_eq_extractLsb' (Nat.zero_add n).symm]
  exact BitVec.extractLsb'_eq_self

/-- A field whose `m` must-be-zero bits are zero holds nothing but its operand of `n` bits (R101). -/
theorem zeros_append_of_field (m n : Nat) {x : BitVec (m + n)} (h : x.extractLsb' n m = 0#m) :
    0#m ++ x.extractLsb' 0 n = x := by
  rw [← h, append_halves]

/-- The four fields are the whole word (R100). -/
theorem packWord_fields (w : CmdWord) : packWord (opField w) (aField w) (bField w) (cField w) = w := by
  unfold packWord opField aField bField cField
  iterate 3 rw [BitVec.extractLsb'_append_extractLsb'_eq_extractLsb' (by rfl)]
  exact BitVec.extractLsb'_eq_self

theorem packWord_inj {op a op' a' : BitVec 8} {b b' : BitVec 16} {c c' : Word} :
    packWord op a b c = packWord op' a' b' c' ↔ op = op' ∧ a = a' ∧ b = b' ∧ c = c' := by
  constructor
  · intro h
    have hop := congrArg opField h
    have ha := congrArg aField h
    have hb := congrArg bField h
    have hc := congrArg cField h
    simp only [opField_packWord, aField_packWord, bField_packWord, cField_packWord] at hop ha hb hc
    exact ⟨hop, ha, hb, hc⟩
  · rintro ⟨rfl, rfl, rfl, rfl⟩
    rfl

theorem packWord_and (op a op' a' : BitVec 8) (b b' : BitVec 16) (c c' : Word) :
    packWord op a b c &&& packWord op' a' b' c' = packWord (op &&& op') (a &&& a') (b &&& b') (c &&& c') := by
  unfold packWord
  iterate 3 rw [BitVec.and_append]

/-! ### One-bit operands and the first byte of a sub-header -/

@[simp] theorem dirOfBit_bitOfDir (dir : Dir) : dirOfBit (bitOfDir dir) = dir := by cases dir <;> rfl
@[simp] theorem cfgOfBit_bitOfCfg (cfg : RbgConfig) : cfgOfBit (bitOfCfg cfg) = cfg := by cases cfg <;> rfl
@[simp] theorem typeOfBit_bitOfType (type : AllocType) : typeOfBit (bitOfType type) = type := by cases type <;> rfl
@[simp] theorem bitOfDir_dirOfBit (b : BitVec 1) : bitOfDir (dirOfBit b) = b := by revert b; decide
@[simp] theorem bitOfCfg_cfgOfBit (b : BitVec 1) : bitOfCfg (cfgOfBit b) = b := by revert b; decide
@[simp] theorem bitOfType_typeOfBit (b : BitVec 1) : bitOfType (typeOfBit b) = b := by revert b; decide

@[simp] theorem headerByte_seven (r f : Bool) (lcid : BitVec 6) : (headerByte r f lcid)[7] = r := by
  unfold headerByte
  rw [BitVec.getElem_append, dif_neg (by decide), BitVec.getElem_append, dif_neg (by decide), BitVec.getElem_ofBool]

@[simp] theorem headerByte_six (r f : Bool) (lcid : BitVec 6) : (headerByte r f lcid)[6] = f := by
  unfold headerByte
  rw [BitVec.getElem_append, dif_neg (by decide), BitVec.getElem_append, dif_pos (by decide), BitVec.getElem_ofBool]

@[simp] theorem headerByte_lcid (r f : Bool) (lcid : BitVec 6) : (headerByte r f lcid).extractLsb' 0 6 = lcid :=
  BitVec.extractLsb'_append_eq_right

/-- The three fields are the whole byte (R110). -/
@[simp] theorem headerByte_fields (h : Byte) : headerByte h[7] h[6] (h.extractLsb' 0 6) = h := by
  have hbits : BitVec.ofBool h[7] ++ BitVec.ofBool h[6] = h.extractLsb' 6 2 := by
    apply BitVec.eq_of_getLsbD_eq
    intro i hi
    obtain rfl | rfl : i = 0 ∨ i = 1 := by omega
    · rw [BitVec.getLsbD_append, if_pos (by decide)]
      simp
    · rw [BitVec.getLsbD_append, if_neg (by decide)]
      simp
  rw [headerByte, hbits, append_halves 2 6]

/-! ### The round trip -/

@[simp] theorem decode_packWord (op a : BitVec 8) (b : BitVec 16) (c : Word) :
    decode (packWord op a b c) = decodeFields op a b c := by
  simp only [decode, opField_packWord, aField_packWord, bField_packWord, cField_packWord]

@[simp] theorem withZeros_eq_ok {zeros : Bool} {i j : Instr} : withZeros zeros i = .ok j ↔ zeros = true ∧ i = j := by
  cases zeros <;> simp [withZeros]

/-- The word of a command decodes to it. Where an operand shares its field with must-be-zero bits, the widths of the two are those
of R104. -/
theorem decode_of_encode {i : Instr} {w : CmdWord} (h : encode i = .command w) : decode w = .ok i := by
  cases i with
  | subhdr1B | subhdr2B | subhdr3B => cases h
  | macInitTx | macInitRx | macAddSdu | macAddCrntiCe | macAddSePhrCe | macAddSbsrCe | macAddConresCe | macChkLcid | rbInit
  | rbAddRbgs | rbGrantSetRbgs | rbGrantDecode =>
    obtain rfl := Encoding.command.inj h
    refine (decode_packWord _ _ _ _).trans (withZeros_eq_ok.mpr ?_)
    simp [halves_append 7 1, halves_append 2 6, halves_append 5 3, halves_append 10 6, halves_append 11 5, halves_append 15 1,
      halves_append 16 16, halves_append 13 19, append_halves 16 32]
  | _ =>
    obtain rfl := Encoding.command.inj h
    exact decode_packWord _ _ _ _

/-- The bytes of a sub-header decode to it. -/
theorem decodeSubHeader_of_encode {i : Instr} {bytes : List Byte} (h : encode i = .wire bytes) :
    decodeSubHeader bytes = .ok i := by
  cases i with
  | subhdr1B | subhdr2B =>
    obtain rfl := Encoding.wire.inj h
    simp [decodeSubHeader]
  | subhdr3B =>
    obtain rfl := Encoding.wire.inj h
    simp [decodeSubHeader, append_halves 8 8]
  | _ => cases h

/-- Settles O2: a command decodes from its word and a sub-header from its bytes, well formed or not. -/
theorem encodedInstructionsDecodeBack : Obligations.EncodedInstructionsDecodeBack := by
  intro i _
  cases h : encode i with
  | command w => exact decode_of_encode h
  | wire bytes => exact decodeSubHeader_of_encode h

/-- What decodes has the `op` value of the word. -/
theorem opcode_of_decodeFields {op a : BitVec 8} {b : BitVec 16} {c : Word} {i : Instr}
    (h : decodeFields op a b c = .ok i) : opcode i = some op := by
  unfold decodeFields at h
  split at h
  case h_4 hop =>
    obtain rfl := Except.ok.inj h
    exact congrArg some (BitVec.eq_of_toNat_eq hop.symm)
  case h_39 => cases h
  all_goals
    next hop =>
      obtain ⟨-, rfl⟩ := withZeros_eq_ok.mp h
      exact congrArg some (BitVec.eq_of_toNat_eq hop.symm)

/-- The fields that decode are those of the command's word: the must-be-zero bits are zero, and every other bit is in an operand. -/
theorem encode_of_decodeFields {op a : BitVec 8} {b : BitVec 16} {c : Word} {i : Instr}
    (h : decodeFields op a b c = .ok i) : encode i = .command (packWord op a b c) := by
  have hop := opcode_of_decodeFields h
  cases i with
  | subhdr1B | subhdr2B | subhdr3B => cases hop
  | memWr =>
    obtain rfl := Option.some.inj hop
    obtain ⟨⟩ := Except.ok.inj h
    rfl
  | _ =>
    obtain rfl := Option.some.inj hop
    obtain ⟨hzeros, ⟨⟩⟩ := withZeros_eq_ok.mp h
    simp_all [encode, zeros_append_of_field 7 1, zeros_append_of_field 2 6, zeros_append_of_field 5 3,
      zeros_append_of_field 10 6, zeros_append_of_field 11 5, zeros_append_of_field 15 1, zeros_append_of_field 16 16,
      zeros_append_of_field 13 19, halves_append 16 32]

theorem encode_of_decode {w : CmdWord} {i : Instr} (h : decode w = .ok i) : encode i = .command w := by
  rw [encode_of_decodeFields h, packWord_fields]

/-- Bytes that decode are those of the sub-header: one, two with bit 6 clear, or three with bit 6 set (R111). -/
theorem encode_of_decodeSubHeader {bytes : List Byte} {i : Instr} (h : decodeSubHeader bytes = .ok i) :
    encode i = .wire bytes := by
  unfold decodeSubHeader at h
  split at h
  · obtain rfl := Except.ok.inj h
    simp [encode]
  · next b n =>
    split at h
    · cases h
    · next hf =>
      obtain rfl := Except.ok.inj h
      have hfields := headerByte_fields b
      simp_all [encode]
  · next b n1 n0 =>
    split at h
    · next hf =>
      obtain rfl := Except.ok.inj h
      have hfields := headerByte_fields b
      simp_all [encode, halves_append 8 8]
    · cases h
  · cases h

/-- Settles O3: the fields of the word, or the bytes, come back from the instruction. -/
theorem decodedWordsAreTheirEncodings : Obligations.DecodedWordsAreTheirEncodings :=
  ⟨fun _ _ => encode_of_decode, fun _ _ => encode_of_decodeSubHeader⟩

/-- Settles O1: each word and each byte list is the encoding of what the spec writes it for; the last two are illegal (R106). -/
theorem specWordsDecodeToTheirCommands : Obligations.SpecWordsDecodeToTheirCommands :=
  ⟨decode_of_encode rfl, decode_of_encode rfl, decode_of_encode rfl, decode_of_encode rfl, decode_of_encode rfl,
    decode_of_encode rfl, decode_of_encode rfl, decode_of_encode rfl, decode_of_encode rfl, decode_of_encode rfl,
    decode_of_encode rfl, decode_of_encode rfl, decode_of_encode rfl, decode_of_encode rfl, decode_of_encode rfl,
    decodeSubHeader_of_encode rfl, decodeSubHeader_of_encode rfl, decodeSubHeader_of_encode rfl, rfl, rfl⟩

/-! ### The mask and match test -/

/-- The mask of `m` must-be-zero bits above an operand of `n` bits. -/
def zerosAbove (m n : Nat) : BitVec (m + n) := BitVec.allOnes m ++ 0#n

/-- The mask of a field of `n` bits that the row does not use. -/
def unusedField (n : Nat) : BitVec n := .allOnes n

theorem and_zerosAbove_eq_zero (m n : Nat) (x : BitVec (m + n)) :
    x &&& zerosAbove m n = 0#(m + n) ↔ x.extractLsb' n m = 0#m := by
  have hand : x &&& zerosAbove m n = x.extractLsb' n m ++ 0#n := by
    conv_lhs => rw [← append_halves m n x, zerosAbove, BitVec.and_append, BitVec.and_allOnes, BitVec.and_zero]
  rw [hand, ← BitVec.zero_append_zero, BitVec.append_left_inj]

@[simp] theorem and_unusedField {n : Nat} (x : BitVec n) : x &&& unusedField n = x := BitVec.and_allOnes

/-- The must-be-zero bits of the fields `a`, `b`, `c` in the row of an `op` value (R101, R104). -/
def zeroBits : Nat → Option (BitVec 8 × BitVec 16 × Word)
  | 0x03 => some (0, 0, 0)
  | 0x02 | 0x04 => some (0, unusedField 16, 0)
  | 0x10 | 0x2E => some (zerosAbove 7 1, unusedField 16, 0)
  | 0x11 => some (zerosAbove 7 1, unusedField 16, unusedField 32)
  | 0x12 => some (zerosAbove 2 6, 0, 0)
  | 0x13 => some (unusedField 8, unusedField 16, zerosAbove 16 16)
  | 0x14 => some (zerosAbove 2 6, zerosAbove 10 6, unusedField 32)
  | 0x15 => some (zerosAbove 5 3, zerosAbove 11 5, unusedField 32)
  | 0x16 | 0x22 | 0x26 | 0x27 | 0x28 => some (unusedField 8, 0, 0)
  | 0x18 | 0x19 | 0x1A | 0x2F => some (unusedField 8, unusedField 16, 0)
  | 0x1C => some (zerosAbove 2 6, zerosAbove 15 1, unusedField 32)
  | 0x20 => some (zerosAbove 7 1, 0, 0)
  | 0x23 | 0x29 => some (unusedField 8, unusedField 16, zerosAbove 13 19)
  | 0x00 | 0x01 | 0x17 | 0x1B | 0x21 | 0x24 | 0x25 | 0x2A | 0x2B | 0x2C | 0x2D | 0x30 | 0x31 | 0x32 | 0x33 =>
    some (unusedField 8, unusedField 16, unusedField 32)
  | _ => none

theorem lt_of_zeroBits {op : Nat} {z : BitVec 8 × BitVec 16 × Word} (h : zeroBits op = some z) : op < 0x34 := by
  unfold zeroBits at h
  split at h
  case h_39 => cases h
  all_goals decide

/-- A command word decodes exactly where the must-be-zero bits of its row are zero (R101, R106). -/
theorem exists_decodeFields_iff (op a : BitVec 8) (b : BitVec 16) (c : Word) :
    (∃ i, decodeFields op a b c = .ok i) ↔
      ∃ z, zeroBits op.toNat = some z ∧ a &&& z.1 = 0 ∧ b &&& z.2.1 = 0 ∧ c &&& z.2.2 = 0 := by
  unfold decodeFields
  split
  case h_39 => simp [zeroBits]
  all_goals
    next hop =>
      rw [hop]
      change _ ↔ ∃ z, some _ = some z ∧ _
      simp [and_assoc, and_zerosAbove_eq_zero 7 1, and_zerosAbove_eq_zero 2 6, and_zerosAbove_eq_zero 16 16,
        and_zerosAbove_eq_zero 10 6, and_zerosAbove_eq_zero 5 3, and_zerosAbove_eq_zero 11 5,
        and_zerosAbove_eq_zero 15 1, and_zerosAbove_eq_zero 13 19]

/-- The mask of a row of spec/opcode_table.json covers `op` and the must-be-zero bits; its match is the `op` value alone (R102). -/
theorem opcodeRows_eq : opcodeRows = (List.range 0x34).filterMap (fun op =>
    (zeroBits op).map fun z => (packWord 0xFF z.1 z.2.1 z.2.2, packWord (BitVec.ofNat 8 op) 0 0 0)) := by
  rfl

/-- A word matches a row of the table exactly where the must-be-zero bits of the row of its `op` value are zero. -/
theorem exists_opcodeRow_iff (op a : BitVec 8) (b : BitVec 16) (c : Word) :
    (∃ row ∈ opcodeRows, packWord op a b c &&& row.1 = row.2) ↔
      ∃ z, zeroBits op.toNat = some z ∧ a &&& z.1 = 0 ∧ b &&& z.2.1 = 0 ∧ c &&& z.2.2 = 0 := by
  have hall : op &&& 0xFF = op := BitVec.and_allOnes
  simp only [opcodeRows_eq, List.mem_filterMap, List.mem_range, Option.map_eq_some_iff]
  constructor
  · rintro ⟨_, ⟨n, hn, z, hz, rfl⟩, hmatch⟩
    obtain ⟨hop, hzero⟩ := packWord_inj.mp ((packWord_and _ _ _ _ _ _ _ _).symm.trans hmatch)
    rw [hall] at hop
    refine ⟨z, ?_, hzero⟩
    rw [hop, BitVec.toNat_ofNat, Nat.mod_eq_of_lt (by omega), hz]
  · rintro ⟨z, hz, hzero⟩
    refine ⟨_, ⟨op.toNat, lt_of_zeroBits hz, z, hz, rfl⟩, ?_⟩
    rw [packWord_and, packWord_inj, hall, BitVec.ofNat_toNat, BitVec.setWidth_eq]
    exact ⟨rfl, hzero⟩

/-- Settles O4: both sides say that the must-be-zero bits of the row of `op` are zero. -/
theorem decodingTestsMaskAndMatch : Obligations.DecodingTestsMaskAndMatch := by
  intro w
  rw [← packWord_fields w, decode_packWord, exists_decodeFields_iff, exists_opcodeRow_iff]

/-! ### Illegal words -/

/-- An `op` value that R104 leaves out is unknown, whatever the fields hold (R106). -/
theorem decodeFields_of_reserved {op : BitVec 8} (a : BitVec 8) (b : BitVec 16) (c : Word)
    (h : (0x05 ≤ op.toNat ∧ op.toNat ≤ 0x0F) ∨ (0x1D ≤ op.toNat ∧ op.toNat ≤ 0x1F) ∨ 0x34 ≤ op.toNat) :
    decodeFields op a b c = .error .unknownOp := by
  unfold decodeFields
  split
  case h_39 => rfl
  all_goals omega

theorem exists_error_of_no_row {w : CmdWord} (h : ∀ row ∈ opcodeRows, w &&& row.1 ≠ row.2) : ∃ e, decode w = .error e := by
  cases hd : decode w with
  | error e => exact ⟨e, rfl⟩
  | ok i =>
    obtain ⟨row, hrow, hmatch⟩ := (decodingTestsMaskAndMatch w).mp ⟨i, hd⟩
    exact absurd hmatch (h row hrow)

/-- A word that does not decode is refused, unless the lock turns it away first (R321, R106). -/
theorem entry_of_illegal {w : CmdWord} {s : State} {e : Illegal} (hfree : s.fatal = none) (hdecode : decode w = .error e) :
    entry w s = .next (Safety.refusedWith s .illegalCmd) := by
  obtain ⟨hlock, -, -⟩ | ⟨-, -, heq⟩ | ⟨-, i, hi, -⟩ := entry_cases w s
  · simp [hfree] at hlock
  · exact heq
  · exact nomatch hdecode.symm.trans hi

/-- Settles O7: the entry refuses what does not decode, and neither a reserved `op` value nor a word that matches no row decodes. -/
theorem illegalWordsChangeStatusAndCount : Obligations.IllegalWordsChangeStatusAndCount := by
  refine ⟨fun s w rest e hidle hword hfree hdecode => ⟨?_, rfl⟩, fun w => decodeFields_of_reserved _ _ _,
    fun w => exists_error_of_no_row⟩
  calc step s = stepCommand s := step_of_no_parse hidle
    _ = entry w (s.issue rest) := stepCommand_of_cons hword
    _ = .next (Safety.refusedWith (s.issue rest) .illegalCmd) := entry_of_illegal hfree hdecode

end Sys2Proof
end

section
/-! A sub-header of the parse in progress (30_encoding.md R110 to R112, 43_mac_parse.md R222, log entries 5 and 9): its bytes, the
size of the sub-PDU it opens by the tables of R211, and what one pass of the loop does with it. -/

namespace Sys2Proof.Machine

/-! ### The tests of the parse by the tables of 43_mac_parse.md R211 -/

theorem isValidLcid_eq_table (dir : Dir) (lcid : BitVec 6) :
    isValidLcid lcid.toNat dir = decide ((lcidTable dir lcid.toNat).1 ≠ 0) := by
  revert lcid
  cases dir <;> decide

theorem hasLength_eq_table (dir : Dir) (lcid : BitVec 6) :
    hasLength lcid.toNat dir = decide ((lcidTable dir lcid.toNat).1 = 1 ∨ (lcidTable dir lcid.toNat).1 = 4) := by
  revert lcid
  cases dir <;> decide

theorem eq_padding_iff_table (dir : Dir) (lcid : BitVec 6) : lcid.toNat = 63 ↔ (lcidTable dir lcid.toNat).1 = 5 := by
  revert lcid
  cases dir <;> decide

theorem ceSize_eq_table (dir : Dir) (lcid : BitVec 6) : ceSize lcid.toNat dir =
    if (lcidTable dir lcid.toNat).1 = 2 ∨ (lcidTable dir lcid.toNat).1 = 3 then some (lcidTable dir lcid.toNat).2 else none := by
  revert lcid
  cases dir <;> decide

/-! ### The size of the sub-PDU that a sub-header opens, by the class of its LCID -/

section
variable {dir : Dir} {h : SubHeader} (off len : Nat)

theorem subPduSize_of_reserved (hclass : (lcidTable dir h.lcid.toNat).1 = 0) :
    subPduSize dir off len h = .error .malformedPdu := by
  simp [subPduSize, isValidLcid_eq_table, hclass]

theorem subPduSize_of_unsupported (hclass : (lcidTable dir h.lcid.toNat).1 = 6) :
    subPduSize dir off len h = .error .unsupportedLcid := by
  simp [subPduSize, isValidLcid_eq_table, hasLength_eq_table, eq_padding_iff_table dir, ceSize_eq_table, hclass]

theorem subPduSize_of_padding (hclass : (lcidTable dir h.lcid.toNat).1 = 5) :
    subPduSize dir off len h = .ok (1, len - off - 1) := by
  simp [subPduSize, isValidLcid_eq_table, hasLength_eq_table, eq_padding_iff_table dir, hclass]

theorem subPduSize_of_fixed (hclass : (lcidTable dir h.lcid.toNat).1 = 2 ∨ (lcidTable dir h.lcid.toNat).1 = 3) :
    subPduSize dir off len h = .ok (1, (lcidTable dir h.lcid.toNat).2) := by
  obtain hclass | hclass := hclass <;>
    simp [subPduSize, isValidLcid_eq_table, hasLength_eq_table, eq_padding_iff_table dir, ceSize_eq_table, hclass]

/-- An LCID that carries a length: the length field is the payload's, or it is cut off (log entry 9). -/
theorem subPduSize_of_length (hclass : (lcidTable dir h.lcid.toNat).1 = 1 ∨ (lcidTable dir h.lcid.toNat).1 = 4) :
    subPduSize dir off len h = h.len.elim (.error .malformedPdu) fun l => .ok (if h.f then 3 else 2, l) := by
  simp only [subPduSize, isValidLcid_eq_table, hasLength_eq_table, hclass, decide_true, if_true]
  obtain hclass | hclass := hclass <;> cases h.len <;> simp [hclass]

end

/-! ### One pass of the loop -/

theorem parseOne_of_error {dir : Dir} {spCap : Nat} {c : Cursor} {h : SubHeader} {e : Code}
    (hsize : subPduSize dir c.off c.len h = .error e) : parseOne dir spCap c h = .error e := by
  simp [parseOne, hsize]

theorem parseOne_of_beyond {dir : Dir} {spCap hlen slen : Nat} {c : Cursor} {h : SubHeader}
    (hsize : subPduSize dir c.off c.len h = .ok (hlen, slen)) (hend : c.len < c.off + hlen + slen) :
    parseOne dir spCap c h = .error .malformedPdu := by
  simp [parseOne, hsize, hend]

theorem parseOne_of_full {dir : Dir} {spCap hlen slen : Nat} {c : Cursor} {h : SubHeader}
    (hsize : subPduSize dir c.off c.len h = .ok (hlen, slen)) (hend : c.off + hlen + slen ≤ c.len)
    (hfull : c.list.length = spCap) : parseOne dir spCap c h = .error .tableFull := by
  simp [parseOne, hsize, hend.not_gt, hfull]

/-- A pass that fails discards the list and reports the code. -/
theorem State.parseSubHeader_of_error {s : State} {h : SubHeader} {e : Code} (hparse : s.cursor.off < s.cursor.len)
    (hpass : parseOne s.mac.dir s.params.spCap s.cursor h = .error e) :
    s.parseSubHeader h = Safety.refusedWith { s with cursor := .idle } e := by
  simp only [State.parseSubHeader, if_pos hparse, hpass]
  rfl

/-- A pass that succeeds moves the cursor, or commits the parse at the end of the block. -/
theorem State.parseSubHeader_of_ok {s : State} {h : SubHeader} {c : Cursor} (hparse : s.cursor.off < s.cursor.len)
    (hpass : parseOne s.mac.dir s.params.spCap s.cursor h = .ok c) :
    s.parseSubHeader h = if c.off < c.len then { s with cursor := c } else Safety.completedAs s (s.commitParse c) := by
  simp only [State.parseSubHeader, if_pos hparse, hpass]
  rfl

/-! ### The meaning of a sub-header -/

/-- A sub-header that fails its pass ends the parse in the error and changes nothing else. -/
theorem exec_of_parseOne_error {i : Instr} {s : State} {h : SubHeader} {e : Code} (hsub : subHeaderOf i = some h)
    (hparse : s.cursor.off < s.cursor.len) (hpass : parseOne s.mac.dir s.params.spCap s.cursor h = .error e) :
    exec i s = .next (Safety.refusedWith { s with cursor := .idle } e) := by
  rw [exec_of_subHeaderOf hsub, State.parseSubHeader_of_error hparse hpass]

/-- Settles O28: the sub-header has a size by the class of its LCID, and the pass of the loop adds its descriptor. -/
theorem subHeadersAdvanceTheParse : Obligations.SubHeadersAdvanceTheParse := by
  intro i s f lcid hlen slen k size stop ds hparse hk hsize hi hstop hfit hfree hds
  subst hk hsize hstop hds
  obtain ⟨h, hsub, rfl, rfl, hopens⟩ : ∃ h : SubHeader, subHeaderOf i = some h ∧ h.lcid = lcid ∧ h.f = f
      ∧ subPduSize s.mac.dir s.cursor.off s.cursor.len h = .ok (hlen, slen) := by
    obtain ⟨r, rfl, rfl, ⟨hclass, rfl⟩ | ⟨hclass, rfl⟩⟩ | ⟨r, n, rfl, rfl, rfl, hclass, rfl⟩
      | ⟨r, n, rfl, rfl, rfl, hclass, rfl⟩ := hi
    · exact ⟨_, rfl, rfl, rfl, subPduSize_of_padding _ _ hclass⟩
    · exact ⟨_, rfl, rfl, rfl, subPduSize_of_fixed _ _ hclass⟩
    · exact ⟨_, rfl, rfl, rfl, subPduSize_of_length _ _ hclass⟩
    · exact ⟨_, rfl, rfl, rfl, subPduSize_of_length _ _ hclass⟩
  have hpass := parseOne_eq_ok.mpr ⟨hlen, slen, hopens, hfit, hfree, rfl⟩
  rw [exec_of_subHeaderOf hsub, State.parseSubHeader_of_ok hparse hpass]
  refine ⟨fun hmore => ?_, fun hend => ?_⟩
  · rw [if_pos hmore]
    rfl
  · rw [if_neg (Nat.not_lt.mpr hend.ge)]
    rfl

/-- Settles O29: a sub-header whose LCID gives no size fails its pass, and so does one that opens a sub-PDU for which the block or the
table has no room. -/
theorem subHeadersEndTheParseInError : Obligations.SubHeadersEndTheParseInError := by
  constructor
  · intro i s lcid k hk hi
    subst hk
    obtain ⟨h, hsub, rfl, hlen⟩ : ∃ h : SubHeader, subHeaderOf i = some h ∧ h.lcid = lcid
        ∧ ((∃ r f, i = .subhdr1B r f lcid) → h.len = none) := by
      obtain ⟨r, f, rfl⟩ | ⟨r, n, rfl⟩ | ⟨r, n, rfl⟩ := hi
      · exact ⟨_, rfl, rfl, fun _ => rfl⟩
      · exact ⟨_, rfl, rfl, fun ⟨_, _, h⟩ => nomatch h⟩
      · exact ⟨_, rfl, rfl, fun ⟨_, _, h⟩ => nomatch h⟩
    refine ⟨fun hidle => ?_, fun hparse hclass => ?_, fun hparse hclass => ?_, fun hparse hclass hone => ?_⟩
    · rw [exec_of_subHeaderOf hsub, State.parseSubHeader_of_no_parse hidle]
    · exact exec_of_parseOne_error hsub hparse (parseOne_of_error (subPduSize_of_reserved _ _ hclass))
    · exact exec_of_parseOne_error hsub hparse (parseOne_of_error (subPduSize_of_unsupported _ _ hclass))
    · refine exec_of_parseOne_error hsub hparse (parseOne_of_error ?_)
      rw [subPduSize_of_length _ _ hclass, hlen hone]
      rfl
  · intro i s lcid k stop hk hparse hi
    subst hk
    obtain ⟨h, hlen, slen, hsub, hopens, rfl⟩ : ∃ (h : SubHeader) (hlen slen : Nat), subHeaderOf i = some h
        ∧ subPduSize s.mac.dir s.cursor.off s.cursor.len h = .ok (hlen, slen) ∧ stop = s.cursor.off + hlen + slen := by
      obtain ⟨r, f, rfl, ⟨hclass, rfl⟩ | ⟨hclass, rfl⟩⟩ | ⟨r, n, rfl, hclass, rfl⟩ | ⟨r, n, rfl, hclass, rfl⟩ := hi
      · exact ⟨_, _, _, rfl, subPduSize_of_padding _ _ hclass, by omega⟩
      · exact ⟨_, _, _, rfl, subPduSize_of_fixed _ _ hclass, rfl⟩
      · exact ⟨_, _, _, rfl, subPduSize_of_length _ _ hclass, rfl⟩
      · exact ⟨_, _, _, rfl, subPduSize_of_length _ _ hclass, rfl⟩
    exact ⟨fun hbeyond => exec_of_parseOne_error hsub hparse (parseOne_of_beyond hopens hbeyond),
      fun hfit hfull => exec_of_parseOne_error hsub hparse (parseOne_of_full hopens hfit hfull)⟩

/-! ### The bytes of the sub-header at the cursor -/

/-- The number of bytes of the sub-header at the cursor: one, and those of the length field where the LCID carries one that is not
cut off (30_encoding.md R111). -/
def State.subHeaderLength (s : State) (c : Cursor) : Nat :=
  if hasLength (s.read .tb c.off % 64) s.mac.dir ∧ c.off + 1 + (if s.read .tb c.off / 64 % 2 = 1 then 2 else 1) ≤ c.len then
    if s.read .tb c.off / 64 % 2 = 1 then 3 else 2
  else 1

theorem State.subHeaderBytes_eq (s : State) (c : Cursor) :
    s.subHeaderBytes c = (List.range (s.subHeaderLength c)).map fun k => byte (s.read .tb (c.off + k)) := by
  obtain ⟨hf, -, hlcid⟩ := byte_fields (s.read .tb c.off)
  simp only [State.subHeaderBytes, State.subHeaderLength, hf, hlcid, Bool.and_eq_true, decide_eq_true_eq]
  by_cases hlong : s.read .tb c.off / 64 % 2 = 1
  · simp only [hlong, if_true]
    split <;> rfl
  · simp only [hlong, if_false]
    split <;> rfl

/-- A list of bytes is what its elements say. -/
theorem eq_map_byte {bytes : List Byte} {f : Nat → Nat} (h : ∀ k b, bytes[k]? = some b → f k = b.toNat) :
    bytes = (List.range bytes.length).map fun k => byte (f k) := by
  apply List.ext_getElem (by simp)
  intro k hk _
  simp [h k bytes[k] (List.getElem?_eq_getElem hk)]

/-- Settles O6: the bytes at the cursor are those of the encoding, so they decode to the instruction. -/
theorem stepRunsTheSubHeaderOfTheParse : Obligations.StepRunsTheSubHeaderOfTheParse := by
  intro s i bytes hparse hencode hlength hread
  have hbytes : s.subHeaderBytes s.cursor = bytes := by
    rw [eq_map_byte hread, hlength]
    exact s.subHeaderBytes_eq s.cursor
  have hfetch : s.fetchSubHeader s.cursor = .ok i := by
    rw [State.fetchSubHeader, hbytes, decodeSubHeader_of_encode hencode]
  rw [step_of_parse hparse]
  simp only [stepSubHeader, hfetch]

end Sys2Proof.Machine
end

section
/-! The commands by which the host reaches the block's registers and memory spaces (40_system_commands.md R140 to R147). -/

namespace Sys2Proof.Machine

open Safety

/-! ### `SYS.NOP` and the lock -/

/-- The lock turns away every word but the reset word (60_exceptions.md R321, R326). -/
theorem entry_of_locked {w : CmdWord} {s : State} (hlock : s.fatal ≠ none) (hw : w ≠ resetWord) :
    entry w s = .next (refusedWith s .locked) :=
  if_pos ⟨Option.isSome_iff_ne_none.mpr hlock, hw⟩

/-- Settles O14: the rule of `SYS.NOP` writes nothing, and its word is not the one the lock lets pass. -/
theorem nopOnlyCompletes : Obligations.NopOnlyCompletes := by
  refine ⟨specWordsDecodeToTheirCommands.1, fun s => rfl, fun s rest hidle hword hlock => ?_⟩
  calc step s = stepCommand s := step_of_no_parse hidle
    _ = entry 0#64 (s.issue rest) := stepCommand_of_cons hword
    _ = .next (refusedWith (s.issue rest) .locked) := entry_of_locked hlock (by decide)

/-! ### The configuration registers of UCIU -/

/-- The configuration CSRs `0x30` to `0x3A` in the order of their numbers (10_state.md R42). -/
def Uci.cfgRegs (u : Uci) : List Word :=
  [u.l1, u.l1csi, u.nl, u.qm, u.oack, u.gack, u.gackrvd, u.gcsi1, u.gcsi2, u.gulsch, u.nofre]

theorem Uci.cfgRegs_writeCfg (u : Uci) {n : Nat} (v : Word) (hlo : 0x30 ≤ n) (hhi : n ≤ 0x3A) :
    (u.writeCfg n v).cfgRegs = u.cfgRegs.set (n - 0x30) v := by
  interval_cases n <;> rfl

theorem Uci.writeCfg_msc (u : Uci) (n : Nat) (v : Word) : (u.writeCfg n v).msc = u.msc := by
  unfold Uci.writeCfg
  split <;> rfl

theorem Uci.writeCfg_muci (u : Uci) (n : Nat) (v : Word) : (u.writeCfg n v).muci = u.muci := by
  unfold Uci.writeCfg
  split <;> rfl

theorem State.getElem?_cfgRegs (s : State) {n : BitVec 8} (hlo : 0x30 ≤ n.toNat) (hhi : n.toNat ≤ 0x3A) :
    s.uci.cfgRegs[n.toNat - 0x30]? = some (s.csrRead n) := by
  unfold State.csrRead
  generalize n.toNat = k at *
  interval_cases k <;> rfl

/-- What the host reads from the configuration registers after one of them was written. -/
theorem csrRead_of_writeCfg {s t : State} {csr n : BitVec 8} {v : Word}
    (ht : t.uci = (s.uci.writeCfg csr.toNat v).invalidate) (hlo : 0x30 ≤ csr.toNat) (hhi : csr.toNat ≤ 0x3A)
    (hnlo : 0x30 ≤ n.toNat) (hnhi : n.toNat ≤ 0x3A) : t.csrRead n = if n = csr then v else s.csrRead n := by
  have hregs : t.uci.cfgRegs = s.uci.cfgRegs.set (csr.toNat - 0x30) v := by
    rw [ht]
    exact s.uci.cfgRegs_writeCfg v hlo hhi
  have hread := t.getElem?_cfgRegs hnlo hnhi
  rw [hregs] at hread
  apply Option.some.inj
  rw [← hread]
  split
  · next heq =>
    rw [heq]
    refine List.getElem?_set_self ?_
    show csr.toNat - 0x30 < 11
    omega
  · next hne =>
    have hindex : csr.toNat - 0x30 ≠ n.toNat - 0x30 := by
      have : n.toNat ≠ csr.toNat := fun h => hne (BitVec.eq_of_toNat_eq h)
      omega
    rw [List.getElem?_set_ne hindex, s.getElem?_cfgRegs hnlo hnhi]

/-! ### `CSR.WR` -/

theorem csrExists_iff {n : Nat} : csrExists n = true ↔
    n ≤ 0x03 ∨ (0x10 ≤ n ∧ n ≤ 0x14) ∨ (0x20 ≤ n ∧ n ≤ 0x26) ∨ (0x30 ≤ n ∧ n ≤ 0x3D) := by
  simp [csrExists, or_assoc]

theorem csrWritable_iff {n : Nat} : csrWritable n = true ↔ 0x30 ≤ n ∧ n ≤ 0x3A := by
  simp [csrWritable]

theorem exec_csrWr (csr : BitVec 8) (v : Word) (s : State) :
    exec (.csrWr csr v) s = .next (s.complete (require (csrExists csr.toNat) .badIndex
      (require (csrWritable csr.toNat) .badOperand (.ok { s with uci := (s.uci.writeCfg csr.toNat v).invalidate })))) :=
  rfl

/-- Settles O15: the two refusals are the two preconditions in their order; behind them the write replaces one entry of the list of
configuration registers. -/
theorem csrWriteStoresAndInvalidates : Obligations.CsrWriteStoresAndInvalidates := by
  intro csr v s
  rw [exec_csrWr]
  refine ⟨decode_of_encode (i := .csrWr csr v) rfl, fun hnone => ?_, fun hreadOnly => ?_, fun hlo hhi => ?_⟩
  · rw [require_of_not (mt csrExists_iff.mp hnone)]
    rfl
  · have hexists : csrExists csr.toNat = true := csrExists_iff.mpr (by omega)
    have hwritable : ¬csrWritable csr.toNat = true := fun h => by
      have := csrWritable_iff.mp h
      omega
    rw [require_of hexists, require_of_not hwritable]
    rfl
  · rw [require_of (csrExists_iff.mpr (by omega)), require_of (csrWritable_iff.mpr ⟨hlo, hhi⟩)]
    refine ⟨_, rfl, rfl, ?_, rfl, rfl, rfl, s.uci.writeCfg_msc csr.toNat v, s.uci.writeCfg_muci csr.toNat v,
      fun n hnlo hnhi hne => ?_⟩
    · exact (csrRead_of_writeCfg rfl hlo hhi hlo hhi).trans (if_pos rfl)
    · exact (csrRead_of_writeCfg rfl hlo hhi hnlo hnhi).trans (if_neg hne)

/-! ### Reading a memory space after a write -/

/-- What a space holds is a matter of these fields. -/
theorem State.peek_congr {s t : State} (hmem : t.mem = s.mem) (hrb : t.rb = s.rb) (hmsc : t.uci.msc = s.uci.msc)
    (hmuci : t.uci.muci = s.uci.muci) (sp : Space) (a : Nat) : t.peek sp a = s.peek sp a := by
  cases sp <;> simp only [State.peek, hmem, hrb, hmsc, hmuci]

/-- `MemWrite` of one bit in a bitmap of RBAU: the bit is set or cleared by a mask that holds it alone. -/
theorem getLsbD_writeBit_same {w : Nat} (bm : BitVec w) {a v : Nat} (ha : a < w) (hv : v < 2) :
    ((if v % 2 = 1 then bm ||| BitVec.twoPow w a else bm &&& ~~~(BitVec.twoPow w a)).getLsbD a).toNat = v := by
  interval_cases v <;> simp [ha]

theorem getLsbD_writeBit_other {w : Nat} (bm : BitVec w) {a c : Nat} (v : Nat) (hc : c ≠ a) :
    (if v % 2 = 1 then bm ||| BitVec.twoPow w a else bm &&& ~~~(BitVec.twoPow w a)).getLsbD c = bm.getLsbD c := by
  have hmask : (BitVec.twoPow w a).getLsbD c = false := by simp [hc.symm]
  split
  · simp [hmask]
  · simpa [hmask] using bm.lt_of_getLsbD

/-- An element that was written holds the value. -/
theorem State.peek_poke_same (s : State) {sp : Space} {a v : Nat} (ha : a < sp.size s.params) (hv : v < 2 ^ sp.width) :
    (s.poke sp a v).peek sp a = some v := by
  cases sp with
  | prbs | rbgs => exact congrArg some (getLsbD_writeBit_same _ ha hv)
  | msc | muci =>
    exact (congrArg (Option.map BitVec.toNat) (Vector.getElem?_setIfInBounds_self_of_lt ha)).trans
      (congrArg some (Nat.mod_eq_of_lt hv))
  | _ =>
    exact (congrArg (Option.map BitVec.toNat) (Bank.get_set_same _ a _)).trans (congrArg some (Nat.mod_eq_of_lt hv))

/-- The other elements of the space that was written. -/
theorem State.peek_poke_other (s : State) (sp : Space) {a c : Nat} (v : Nat) (hc : c ≠ a) :
    (s.poke sp a v).peek sp c = s.peek sp c := by
  cases sp with
  | prbs | rbgs => exact congrArg (fun b : Bool => some b.toNat) (getLsbD_writeBit_other _ v hc)
  | msc | muci => exact congrArg (Option.map BitVec.toNat) (Vector.getElem?_setIfInBounds_ne hc.symm)
  | _ => exact congrArg (Option.map BitVec.toNat) (Bank.get_set_other _ _ hc)

/-- No two spaces share an element (20_memory.md R71). -/
theorem State.peek_poke_of_ne (s : State) {sp sp' : Space} (a v c : Nat) (hne : sp' ≠ sp) :
    (s.poke sp a v).peek sp' c = s.peek sp' c := by
  cases sp <;> cases sp' <;> (try contradiction) <;> rfl

/-- The invalidation that goes with a write to `MSC` or `MUCI` touches no element. -/
theorem State.peek_hostWrite (s : State) (sp : Space) (a v : Nat) (sp' : Space) (c : Nat) :
    (s.hostWrite sp a v).peek sp' c = (s.poke sp a v).peek sp' c :=
  have htables : (s.hostWrite sp a v).uci.msc = (s.poke sp a v).uci.msc
      ∧ (s.hostWrite sp a v).uci.muci = (s.poke sp a v).uci.muci := by
    cases sp <;> exact ⟨rfl, rfl⟩
  State.peek_congr (s.hostWrite_mem sp a v) (s.hostWrite_rb sp a v) htables.1 htables.2 sp' c

/-- The host writes only UCIU's tables and the memory; the bitmaps of RBAU are out of its reach. -/
theorem State.hostWrite_eq (s : State) {sp : Space} (hsp : sp.hostWritable = true) (a v : Nat) :
    s.hostWrite sp a v = { s with uci := (s.hostWrite sp a v).uci, mem := (s.hostWrite sp a v).mem } := by
  cases sp with
  | prbs | rbgs => cases hsp
  | _ => rfl

theorem State.hostWrite_uci (s : State) (sp : Space) (a v : Nat) : (s.hostWrite sp a v).uci =
    { (if sp = .msc ∨ sp = .muci then s.uci.invalidate else s.uci) with
      msc := (s.hostWrite sp a v).uci.msc, muci := (s.hostWrite sp a v).uci.muci } := by
  cases sp <;> rfl

/-! ### `MEM.WR` and `MEM.RD` -/

theorem Mode.idle_or_rx_iff {m : Mode} : m = .idle ∨ m = .rx ↔ ¬(m = .tx ∨ m = .rxDone) := by
  cases m <;> decide

section

variable {space : BitVec 8} {sp : Space}

theorem exec_memWr_of_no_space (hspace : 21 ≤ space.toNat) (data : BitVec 16) (addr : Word) (s : State) :
    exec (.memWr space data addr) s = .next (refusedWith s .badIndex) := by
  simp only [exec, execMemWr, spaceOfId_of_gt hspace]
  rfl

theorem exec_memWr_of_space (hid : sp.id = space.toNat) (data : BitVec 16) (addr : Word) (s : State) :
    exec (.memWr space data addr) s = .next (s.complete (require (addr.toNat < sp.size s.params) .badIndex
      (require sp.hostWritable .badOperand (require (data.toNat < 2 ^ sp.width) .badOperand
        (require (sp = .tb → s.mac.mode = .idle ∨ s.mac.mode = .rx) .badState
          (.ok (s.hostWrite sp addr.toNat data.toNat))))))) := by
  simp only [exec, execMemWr, spaceOfId_eq_some_iff.mpr hid]

theorem exec_memRd_of_no_space (hspace : 21 ≤ space.toNat) (addr : Word) (s : State) :
    exec (.memRd space addr) s = .next (refusedWith s .badIndex) := by
  simp only [exec, execMemRd, spaceOfId_of_gt hspace]
  rfl

theorem exec_memRd_of_space (hid : sp.id = space.toNat) (addr : Word) (s : State) :
    exec (.memRd space addr) s = .next (s.complete (require (addr.toNat < sp.size s.params) .badIndex
      (.ok { s with r := { s.r with r0 := word (s.read sp addr.toNat) } }))) := by
  simp only [exec, execMemRd, spaceOfId_eq_some_iff.mpr hid]

end

/-- A read gives a value the element may be read as (20_memory.md R73). -/
theorem State.mayRead_read (s : State) (sp : Space) (a : Nat) : MayRead s sp a (s.read sp a) :=
  ⟨s.readPass_lt 0 sp a, fun _ h => State.readPass_of_peek h⟩

/-- Settles O17: each refusal is the first precondition that fails; behind all four the write is that of `State.hostWrite`. -/
theorem memWriteChangesOneElement : Obligations.MemWriteChangesOneElement := by
  intro space data addr s
  refine ⟨decode_of_encode (i := .memWr space data addr) rfl, fun hspace => exec_memWr_of_no_space hspace data addr s,
    fun sp hid => ?_⟩
  rw [exec_memWr_of_space hid]
  refine ⟨fun hbeyond => ?_, fun hin => ?_⟩
  · rw [require_of_not (Nat.not_lt.mpr hbeyond)]
    rfl
  rw [require_of hin]
  refine ⟨fun hbad => ?_, fun hsp hfits => ?_⟩
  · by_cases hsp : sp.hostWritable = true
    · have hwide : ¬data.toNat < 2 ^ sp.width := Nat.not_lt.mpr (hbad.resolve_left (by simp [hsp]))
      rw [require_of hsp, require_of_not hwide]
      rfl
    · rw [require_of_not hsp]
      rfl
  rw [require_of hsp, require_of hfits]
  refine ⟨fun ⟨htb, hmode⟩ => ?_, fun hfree => ?_⟩
  · have hbusy : ¬(sp = .tb → s.mac.mode = .idle ∨ s.mac.mode = .rx) := fun h => Mode.idle_or_rx_iff.mp (h htb) hmode
    rw [require_of_not hbusy]
    rfl
  · have hidle : sp = .tb → s.mac.mode = .idle ∨ s.mac.mode = .rx := fun htb =>
      Mode.idle_or_rx_iff.mpr fun hmode => hfree ⟨htb, hmode⟩
    rw [require_of hidle]
    refine ⟨_, rfl, congrArg (completedAs s) (s.hostWrite_eq hsp addr.toNat data.toNat), ?_, fun sp' a hother => ?_,
      s.hostWrite_uci sp addr.toNat data.toNat⟩
    · exact (s.peek_hostWrite sp _ _ sp _).trans (s.peek_poke_same hin hfits)
    · refine (s.peek_hostWrite sp _ _ sp' a).trans ?_
      by_cases hne : sp' = sp
      · subst hne
        exact s.peek_poke_other sp' data.toNat fun ha => hother ⟨rfl, ha⟩
      · exact s.peek_poke_of_ne _ _ _ hne

/-- Settles O18: the value is that of `State.read`, which a read of the element may give. -/
theorem memReadReturnsTheElement : Obligations.MemReadReturnsTheElement := by
  intro space addr s
  refine ⟨fun hspace => exec_memRd_of_no_space hspace addr s, fun sp hid => ?_⟩
  rw [exec_memRd_of_space hid]
  refine ⟨fun hbeyond => ?_, fun hin => ⟨s.read sp addr.toNat, s.mayRead_read sp addr.toNat, ?_⟩⟩
  · rw [require_of_not (Nat.not_lt.mpr hbeyond)]
    rfl
  · rw [require_of hin]
    rfl

end Sys2Proof.Machine
end

section
/-! The bitmaps of RBAU (41_rb_allocator.md R160 to R173, R179): the commands that set them, the collision test, and the RBG of a
PRB. -/

namespace Sys2Proof.Machine

open Safety

/-! ### Completion -/

theorem State.complete_ok (s t : State) : s.complete (.ok t) = completedAs s t := rfl

theorem State.complete_require_of_not {p : Prop} [Decidable p] (s : State) {e : Code} {k : Result} (h : ¬p) :
    s.complete (require p e k) = refusedWith s e :=
  congrArg s.complete (require_of_not h)

/-- The first precondition of every allocator command but `RB.INIT` (R165 to R179, 10_state.md R38). -/
theorem State.rbReady_iff {s : State} : s.rbReady ↔ s.rb.nprb ≠ 0 :=
  ⟨RbInv.ready_ne_zero, fun h hzero => h (BitVec.eq_of_toNat_eq hzero)⟩

/-- Before `RB.INIT` a command that needs the BWP is refused. -/
theorem State.complete_of_not_ready {s : State} {k : Result} (h : s.rb.nprb = 0) :
    s.complete (require s.rbReady .badState k) = refusedWith s .badState :=
  s.complete_require_of_not fun hready => State.rbReady_iff.mp hready h

theorem State.complete_of_ready {s : State} {k : Result} (h : s.rb.nprb ≠ 0) :
    s.complete (require s.rbReady .badState k) = s.complete k :=
  congrArg s.complete (require_of (State.rbReady_iff.mpr h))

/-! ### The rules, by the precondition they test first -/

theorem exec_rbInit (cfg : RbgConfig) (start : BitVec 16) (n : Word) (s : State) :
    exec (.rbInit cfg start n) s = .next (s.complete
      (require (1 ≤ n.toNat ∧ n.toNat ≤ 275 ∧ start.toNat + n.toNat ≤ 275) .badOperand
        (.ok { s with rb := s.rb.init cfg start.toNat n.toNat }))) := rfl

theorem exec_rbClear (s : State) :
    exec .rbClear s = .next (s.complete (require s.rbReady .badState (.ok { s with rb := s.rb.clear }))) := rfl

theorem exec_rbAddInterval (start : BitVec 16) (stop : Word) (s : State) :
    exec (.rbAddInterval start stop) s = .next (s.complete (require s.rbReady .badState
      (require (start.toNat ≤ stop.toNat ∧ stop.toNat ≤ s.rb.nprb.toNat) .badOperand
        (.ok { s with rb := s.rb.addInterval start.toNat stop.toNat })))) := rfl

theorem exec_rbAddRbgs (mask : BitVec 19) (s : State) :
    exec (.rbAddRbgs mask) s = .next (s.complete (require s.rbReady .badState
      (require (mask.toNat < 2 ^ s.rb.nrbg.toNat) .badOperand (.ok { s with rb := s.rb.addRbgs mask })))) := rfl

theorem exec_rbAddGrant (s : State) :
    exec .rbAddGrant s = .next (s.complete (require s.rbReady .badState
      (require (s.rb.grantFits s.rb.gr) .badOperand (.ok { s with rb := s.rb.addGrant s.rb.gr })))) := rfl

theorem exec_rbCollides (s : State) :
    exec .rbCollides s = .next (s.complete (require s.rbReady .badState
      (require (s.rb.grantFits s.rb.gr) .badOperand
        (.ok { s with r := { s.r with r0 := word (s.rb.collides s.rb.gr).toNat } })))) := rfl

theorem exec_rbPrb2Rbg (prb : Word) (s : State) :
    exec (.rbPrb2Rbg prb) s = .next (s.complete (require s.rbReady .badState
      (require (prb.toNat < s.rb.nprb.toNat) .badOperand
        (.ok { s with r := { s.r with r0 := word (s.rb.toRbg prb.toNat) } })))) := rfl

/-! ### The geometry of a BWP (R160, R161, R163) -/

theorem rbgP_eq_nominalRbgSize (n : Nat) (cfg : RbgConfig) : rbgP n cfg = nominalRbgSize n cfg := by
  cases cfg with
  | config1 => rfl
  | config2 =>
    show (if n ≤ 36 then 4 else if n ≤ 72 then 8 else if n ≤ 144 then 16 else 16) =
      if n ≤ 36 then 4 else if n ≤ 72 then 8 else 16
    rw [ite_self]

/-- The registers hold the BWP and the geometry derived from it: a BWP inside the carrier fits them. -/
theorem Rb.toNat_init (rb : Rb) (cfg : RbgConfig) {start n : Nat} (hlo : 1 ≤ n) (hin : start + n ≤ 275) :
    (rb.init cfg start n).nprb.toNat = n ∧ (rb.init cfg start n).start.toNat = start
      ∧ (rb.init cfg start n).p.toNat = rbgP n cfg
      ∧ (rb.init cfg start n).first.toNat = rbgP n cfg - start % rbgP n cfg
      ∧ (rb.init cfg start n).nrbg.toNat = ceilDiv (n + start % rbgP n cfg) (rbgP n cfg) := by
  obtain ⟨-, hp⟩ := rbgP_bounds n cfg
  obtain ⟨-, hcount⟩ := ceilDiv_rbgP_bounds hlo (by omega) cfg start
  exact ⟨Nat.mod_eq_of_lt (by omega), Nat.mod_eq_of_lt (by omega), Nat.mod_eq_of_lt (by omega),
    Nat.mod_eq_of_lt (by omega), Nat.mod_eq_of_lt (by omega)⟩

/-- Settles O35: the host reads the geometry registers, which hold the values that R160 and R161 derive from the BWP. -/
theorem rbInitSetsTheGeometry : Obligations.RbInitSetsTheGeometry := by
  intro cfg start n s
  rw [exec_rbInit]
  refine ⟨fun hbad => congrArg _ (s.complete_require_of_not hbad), fun hlo hhi hin p hp => ?_⟩
  rw [require_of ⟨hlo, hhi, hin⟩, s.complete_ok]
  refine ⟨_, rfl, rfl, ?_⟩
  obtain rfl : p = rbgP n.toNat cfg := hp.trans (rbgP_eq_nominalRbgSize _ _).symm
  obtain ⟨hnprb, hstart, hsize, hfirst, hnrbg⟩ := s.rb.toNat_init cfg hlo hin
  obtain ⟨-, -, ⟨rnprb, rstart, rcfg, rsize, rfirst, rnrbg, -⟩, -⟩ := spacesAndRegistersTheHostSees.2
    (completedAs s { s with rb := s.rb.init cfg start.toNat n.toNat })
  refine ⟨BitVec.eq_of_toNat_eq (rnprb.trans hnprb), rstart.trans hstart, rcfg.trans ?_, rsize.trans hsize,
    rfirst.trans hfirst, rnrbg.trans hnrbg, ?_, rfl, rfl⟩
  · cases cfg <;> rfl
  · exact (rnrbg.trans hnrbg).trans_le (ceilDiv_rbgP_bounds hlo hhi cfg start.toNat).2

/-! ### Clearing and setting (R165 to R171) -/

/-- Settles O36: the rule has the one precondition, and `Rb.clear` writes the two bitmaps alone. -/
theorem rbClearClearsBothBitmaps : Obligations.RbClearClearsBothBitmaps := by
  intro s
  rw [exec_rbClear]
  exact ⟨decode_of_encode (i := .rbClear) rfl, fun h => congrArg _ (State.complete_of_not_ready h),
    fun h => congrArg _ (State.complete_of_ready h)⟩

theorem getLsbD_setBits_iff {w i : Nat} (hi : i < w) {bm : BitVec w} {ps : List Nat} :
    (setBits bm ps).getLsbD i = true ↔ bm.getLsbD i = true ∨ i ∈ ps := by
  simp only [getLsbD_setBits, hi, decide_true, Bool.true_and, Bool.or_eq_true, decide_eq_true_eq]

theorem mem_interval {a b p : Nat} : p ∈ List.range' a (b - a) ↔ a ≤ p ∧ p < b := by
  rw [List.mem_range'_1]
  omega

/-- The bits that adding an interval leaves (R167): its PRBs and the RBG of each of them. -/
def IntervalAdded (s t : State) (start stop : Nat) : Prop :=
  t = completedAs s { s with rb := { s.rb with prbs := t.rb.prbs, rbgs := t.rb.rbgs } }
    ∧ (∀ p, p < 275 → (t.rb.prbs.getLsbD p = true ↔ s.rb.prbs.getLsbD p = true ∨ (start ≤ p ∧ p < stop)))
    ∧ (∀ g, g < 19 → (t.rb.rbgs.getLsbD g = true ↔ s.rb.rbgs.getLsbD g = true
        ∨ ∃ p, start ≤ p ∧ p < stop ∧ s.rb.toRbg p = g))

theorem intervalAdded_addInterval (s : State) (start stop : Nat) :
    IntervalAdded s (completedAs s { s with rb := s.rb.addInterval start stop }) start stop := by
  refine ⟨rfl, fun p hp => ?_, fun g hg => ?_⟩
  · exact (getLsbD_setBits_iff hp).trans (or_congr_right mem_interval)
  · refine (getLsbD_setBits_iff hg).trans (or_congr_right ?_)
    simp only [List.mem_map, mem_interval, and_assoc]

theorem maskAdded_addRbgs (s : State) (mask : BitVec 19) :
    MaskAdded s (completedAs s { s with rb := s.rb.addRbgs mask }) mask := by
  refine ⟨rfl, fun g hg => ?_, fun p hp => ?_⟩
  · exact (getLsbD_setBits_iff hg).trans (or_congr_right Rb.mem_maskRbgs)
  · refine (getLsbD_setBits_iff hp).trans (or_congr_right ?_)
    simp only [List.mem_flatMap, Rb.mem_maskRbgs, mem_rbgPrbs, and_assoc]
    rfl

/-- Settles O37: the two preconditions in their order, then the union with the interval. -/
theorem addIntervalSetsPrbsAndTheirRbgs : Obligations.AddIntervalSetsPrbsAndTheirRbgs := by
  intro start stop s
  rw [exec_rbAddInterval]
  refine ⟨decode_of_encode (i := .rbAddInterval start stop) rfl, fun h => congrArg _ (State.complete_of_not_ready h),
    fun h hbad => ?_, fun h hle hstop => ⟨_, ?_, intervalAdded_addInterval s start.toNat stop.toNat⟩⟩
  · rw [State.complete_of_ready h, s.complete_require_of_not hbad]
  · rw [State.complete_of_ready h, require_of ⟨hle, hstop⟩, s.complete_ok]

/-- Settles O38: the two preconditions in their order, then the union with the mask. -/
theorem addRbgsSetsWholeRbgs : Obligations.AddRbgsSetsWholeRbgs := by
  intro mask s
  rw [exec_rbAddRbgs]
  refine ⟨decode_of_encode (i := .rbAddRbgs mask) rfl, fun h => congrArg _ (State.complete_of_not_ready h),
    fun h hbeyond => ?_, fun h hfits => ⟨_, ?_, maskAdded_addRbgs s mask⟩⟩
  · rw [State.complete_of_ready h, s.complete_require_of_not (Nat.not_lt.mpr hbeyond)]
  · rw [State.complete_of_ready h, require_of hfits, s.complete_ok]

/-! ### The grant register against the BWP (R171, R173) -/

section

variable {s : State} {mask : BitVec 19} {start stop : BitVec 9}

theorem grantFits_iff_of_type0 (hgr : s.rb.gr = .type0 mask) :
    s.rb.grantFits s.rb.gr = true ↔ mask.toNat < 2 ^ s.rb.nrbg.toNat := by
  rw [hgr]
  exact decide_eq_true_iff

theorem grantFits_iff_of_type1 (hgr : s.rb.gr = .type1 start stop) :
    s.rb.grantFits s.rb.gr = true ↔ stop.toNat ≤ s.rb.nprb.toNat := by
  rw [hgr]
  exact decide_eq_true_iff

/-- A type-0 grant collides where it shares an RBG of the BWP with `RBGS`. -/
theorem collides_iff_of_type0 (hgr : s.rb.gr = .type0 mask) : s.rb.collides s.rb.gr = true ↔
    ∃ g, g < s.rb.nrbg.toNat ∧ s.rb.rbgs.getLsbD g = true ∧ mask.getLsbD g = true := by
  simp only [hgr, Rb.collides, List.any_eq_true, List.mem_range, Bool.and_eq_true]

/-- A type-1 grant collides where it shares a PRB with `PRBS`. -/
theorem collides_iff_of_type1 (hgr : s.rb.gr = .type1 start stop) : s.rb.collides s.rb.gr = true ↔
    ∃ p, start.toNat ≤ p ∧ p < stop.toNat ∧ s.rb.prbs.getLsbD p = true := by
  simp only [hgr, Rb.collides, List.any_eq_true, mem_interval, and_assoc]

end

/-- A grant that does not fit the BWP can be neither added nor compared. -/
theorem exec_of_grant_beyond {s : State} (hready : s.rb.nprb ≠ 0) (hbeyond : ¬s.rb.grantFits s.rb.gr = true) :
    exec .rbAddGrant s = .next (refusedWith s .badOperand) ∧ exec .rbCollides s = .next (refusedWith s .badOperand) := by
  rw [exec_rbAddGrant, exec_rbCollides, State.complete_of_ready hready, State.complete_of_ready hready,
    s.complete_require_of_not hbeyond, s.complete_require_of_not hbeyond]
  exact ⟨rfl, rfl⟩

theorem exec_rbAddGrant_of_fits {s : State} (hready : s.rb.nprb ≠ 0) (hfits : s.rb.grantFits s.rb.gr = true) :
    exec .rbAddGrant s = .next (completedAs s { s with rb := s.rb.addGrant s.rb.gr }) := by
  rw [exec_rbAddGrant, State.complete_of_ready hready, require_of hfits, s.complete_ok]

theorem exec_rbCollides_of_fits {s : State} (hready : s.rb.nprb ≠ 0) (hfits : s.rb.grantFits s.rb.gr = true) :
    exec .rbCollides s = .next (completedAs s { s with r := { s.r with r0 := word (s.rb.collides s.rb.gr).toNat } }) := by
  rw [exec_rbCollides, State.complete_of_ready hready, require_of hfits, s.complete_ok]

theorem word_toNat_flag (b : Bool) : (word b.toNat = 0 ∨ word b.toNat = 1) ∧ (word b.toNat = 1 ↔ b = true) := by
  cases b <;> decide

/-- Settles O39: each variant is added as `RB.ADD_RBGS` and `RB.ADD_INTERVAL` add theirs. -/
theorem addGrantAddsTheActiveVariant : Obligations.AddGrantAddsTheActiveVariant := by
  intro s
  refine ⟨fun h => ?_, fun h mask hgr => ?_, fun h start stop hgr => ?_⟩
  · rw [exec_rbAddGrant, State.complete_of_not_ready h]
  · have hfits := grantFits_iff_of_type0 hgr
    refine ⟨fun hbeyond => (exec_of_grant_beyond h (mt hfits.mp (Nat.not_lt.mpr hbeyond))).1,
      fun hin => ⟨_, exec_rbAddGrant_of_fits h (hfits.mpr hin), ?_⟩⟩
    rw [hgr]
    exact maskAdded_addRbgs s mask
  · have hfits := grantFits_iff_of_type1 hgr
    refine ⟨fun hbeyond => (exec_of_grant_beyond h (mt hfits.mp (Nat.not_le.mpr hbeyond))).1,
      fun hin => ⟨_, exec_rbAddGrant_of_fits h (hfits.mpr hin), ?_⟩⟩
    rw [hgr]
    exact intervalAdded_addInterval s start.toNat stop.toNat

/-- Settles O40: the flag is the collision test of the grant's own variant. -/
theorem collidesComparesAtNativeGranularity : Obligations.CollidesComparesAtNativeGranularity := by
  intro s
  obtain ⟨hflag, hone⟩ := word_toNat_flag (s.rb.collides s.rb.gr)
  refine ⟨decode_of_encode (i := .rbCollides) rfl, fun h => ?_, fun h mask hgr => ?_, fun h start stop hgr => ?_⟩
  · rw [exec_rbCollides, State.complete_of_not_ready h]
  · have hfits := grantFits_iff_of_type0 hgr
    exact ⟨fun hbeyond => (exec_of_grant_beyond h (mt hfits.mp (Nat.not_lt.mpr hbeyond))).2, fun hin =>
      ⟨_, exec_rbCollides_of_fits h (hfits.mpr hin), hflag, hone.trans (collides_iff_of_type0 hgr)⟩⟩
  · have hfits := grantFits_iff_of_type1 hgr
    exact ⟨fun hbeyond => (exec_of_grant_beyond h (mt hfits.mp (Nat.not_le.mpr hbeyond))).2, fun hin =>
      ⟨_, exec_rbCollides_of_fits h (hfits.mpr hin), hflag, hone.trans (collides_iff_of_type1 hgr)⟩⟩

/-! ### The RBG of a PRB (R161, R179) -/

/-- The RBGs cover the BWP: a PRB lies in the RBG that the formula gives (R161). -/
theorem mem_rbgPrbs_prbToRbg {n p first i : Nat} (hp : 0 < p) (hle : first ≤ p) (hi : i < n) :
    i ∈ rbgPrbs n p first (prbToRbg p first i) := by
  have hlo : prbToRbg p first i * p ≤ i + p - first := Nat.div_mul_le_self _ _
  have hhi : i + p - first < prbToRbg p first i * p + p := Nat.lt_div_mul_add hp
  rw [mem_rbgPrbs]
  unfold rbgLo rbgHi
  generalize prbToRbg p first i = g at hlo hhi ⊢
  cases g with
  | zero =>
    rw [Nat.zero_mul] at hhi ⊢
    rw [if_pos rfl]
    omega
  | succ k =>
    rw [Nat.succ_mul] at hlo hhi ⊢
    simp only [Nat.succ_ne_zero, if_false, Nat.add_sub_cancel]
    omega

/-- Settles O43: the formula is the model's own, and the RBG it gives is the one that `mem_rbgPrbs_prbToRbg` names. -/
theorem prbToRbgNamesTheContainingRbg : Obligations.PrbToRbgNamesTheContainingRbg := by
  intro prb s
  rw [exec_rbPrb2Rbg]
  refine ⟨decode_of_encode (i := .rbPrb2Rbg prb) rfl, fun h => congrArg _ (State.complete_of_not_ready h),
    fun h hbeyond => ?_, fun h hin g hg => ⟨?_, fun hinv => ?_⟩⟩
  · rw [State.complete_of_ready h, s.complete_require_of_not (Nat.not_lt.mpr hbeyond)]
  · rw [State.complete_of_ready h, require_of hin, s.complete_ok, hg]
    rfl
  · obtain rfl : g = s.rb.toRbg prb.toNat := hg
    have hready := State.rbReady_iff.mpr h
    exact ⟨hinv.toRbg_lt hready hin, mem_rbgPrbs.mp (mem_rbgPrbs_prbToRbg (hinv.p_pos hready) (hinv.first_le hready) hin)⟩

end Sys2Proof.Machine
end

section
/-! The two searches of RBAU (41_rb_allocator.md R175, R177): the gaps of the PRB bitmap, the gap that one search finds, and the scan
for a gap of a given length. -/

namespace Sys2Proof.Safety.IsGap

/-! ### Gaps -/

variable {prbs : BitVec 275} {s0 hi a b a' b' : Nat}

theorem start_ge (h : IsGap prbs s0 hi a b) : s0 ≤ a := h.1

theorem start_lt_stop (h : IsGap prbs s0 hi a b) : a < b := by
  obtain ⟨-, hlt, -, -, -, -⟩ := h
  exact hlt

theorem start_lt (h : IsGap prbs s0 hi a b) : a < hi := by
  obtain ⟨-, hlt, hle, -, -, -⟩ := h
  exact hlt.trans_le hle

theorem start_clear (h : IsGap prbs s0 hi a b) : prbs.getLsbD a = false := by
  obtain ⟨-, hlt, -, hclear, -, -⟩ := h
  exact hclear a (Nat.le_refl a) hlt

theorem stop_edge (h : IsGap prbs s0 hi a b) : b = hi ∨ prbs.getLsbD b = true := by
  obtain ⟨-, -, -, -, -, hstop⟩ := h
  exact hstop

/-- A gap that begins in or right behind another one is that one: gaps are maximal. -/
theorem eq_of_touches (h : IsGap prbs s0 hi a b) (h' : IsGap prbs s0 hi a' b') (hlo : a ≤ a') (hhi : a' ≤ b) :
    a' = a ∧ b' = b := by
  obtain ⟨hs0, hlt, hle, hclear, -, hstop⟩ := h
  obtain ⟨-, hlt', hle', hclear', hstart', hstop'⟩ := h'
  have hstart : a' = a := by
    by_contra hne
    obtain heq | hset := hstart'
    · omega
    · exact absurd hset (by simp [hclear (a' - 1) (by omega) (by omega)])
  subst hstart
  refine ⟨rfl, Nat.le_antisymm (Nat.le_of_not_lt fun hlong => ?_) (Nat.le_of_not_lt fun hshort => ?_)⟩
  · obtain heq | hset := hstop
    · omega
    · exact absurd hset (by simp [hclear' b hhi hlong])
  · obtain heq | hset := hstop'
    · omega
    · exact absurd hset (by simp [hclear b' hlt'.le hshort])

/-- The gaps of a later search: where it starts behind a set bit, or behind the end, no gap is cut. -/
theorem from_iff {pos : Nat} (hpos : s0 ≤ pos) (hedge : pos = s0 ∨ hi < pos ∨ prbs.getLsbD (pos - 1) = true) :
    IsGap prbs pos hi a b ↔ IsGap prbs s0 hi a b ∧ pos ≤ a := by
  constructor
  · rintro ⟨hge, hlt, hle, hclear, hstart, hstop⟩
    refine ⟨⟨hpos.trans hge, hlt, hle, hclear, ?_, hstop⟩, hge⟩
    obtain rfl | hset := hstart
    · obtain heq | hbeyond | hset := hedge
      · exact .inl heq
      · omega
      · exact .inr hset
    · exact .inr hset
  · rintro ⟨⟨-, hlt, hle, hclear, hstart, hstop⟩, hge⟩
    refine ⟨hge, hlt, hle, hclear, hstart.imp_left fun heq => ?_, hstop⟩
    omega

end Sys2Proof.Safety.IsGap

namespace Sys2Proof.Machine

open Safety

/-! ### One search (R175) -/

section

variable {prbs : BitVec 275} {n s0 last a b : Nat}

theorem findNext_eq_none_iff :
    findNext prbs n s0 last = none ↔ ∀ i, s0 ≤ i → i < min n last → prbs.getLsbD i = true := by
  have hnone : findNext prbs n s0 last = none ↔
      (List.range' s0 (min n last - s0)).find? (fun p => !prbs.getLsbD p) = none := by
    unfold findNext
    dsimp only
    split <;> simp [*]
  rw [hnone, List.find?_range'_eq_none]
  simp only [Bool.not_not]
  exact forall_congr' fun i => forall_congr' fun hlo => imp_congr_left (by omega)

/-- The end of the run of clear bits that holds `a`: the first set bit behind it, or the end of the range. -/
theorem run_stop_spec {hi stop : Nat} (hlt : a < hi)
    (hstop : ((List.range' (a + 1) (hi - (a + 1))).find? fun q => prbs.getLsbD q).getD hi = stop) :
    a < stop ∧ stop ≤ hi ∧ (∀ q, a < q → q < stop → prbs.getLsbD q = false)
      ∧ (stop = hi ∨ prbs.getLsbD stop = true) := by
  cases hfind : (List.range' (a + 1) (hi - (a + 1))).find? fun q => prbs.getLsbD q with
  | none =>
    rw [hfind, Option.getD_none] at hstop
    subst hstop
    rw [List.find?_range'_eq_none] at hfind
    exact ⟨hlt, Nat.le_refl hi, fun q hlo hhi => by simpa using hfind q hlo (by omega), .inl rfl⟩
  | some q =>
    rw [hfind, Option.getD_some] at hstop
    subst hstop
    obtain ⟨hset, hmem, hbefore⟩ := List.find?_range'_eq_some.mp hfind
    rw [List.mem_range'_1] at hmem
    exact ⟨hmem.1, by omega, fun j hlo hhi => by simpa using hbefore j hlo hhi, .inr hset⟩

/-- What one search finds is a gap, and every bit before it in the range is set. -/
theorem isGap_of_findNext (h : findNext prbs n s0 last = some (a, b)) :
    IsGap prbs s0 (min n last) a b ∧ ∀ i, s0 ≤ i → i < a → prbs.getLsbD i = true := by
  unfold findNext at h
  dsimp only at h
  split at h
  · cases h
  · next start hfind =>
    obtain ⟨rfl, hb⟩ := Prod.mk.inj (Option.some.inj h)
    obtain ⟨hclear, hmem, hbefore⟩ := List.find?_range'_eq_some.mp hfind
    rw [List.mem_range'_1] at hmem
    obtain ⟨hlt, hle, hrun, hstop⟩ := run_stop_spec (by omega) hb
    have hset : ∀ i, s0 ≤ i → i < start → prbs.getLsbD i = true := by simpa using hbefore
    refine ⟨⟨hmem.1, hlt, hle, fun p hlo hhi => ?_, ?_, hstop⟩, hset⟩
    · obtain rfl | hlater := hlo.eq_or_lt
      · simpa using hclear
      · exact hrun p hlater hhi
    · obtain heq | hlater := hmem.1.eq_or_lt
      · exact .inl heq.symm
      · exact .inr (hset _ (by omega) (by omega))

/-- No gap begins before the one found. -/
theorem findNext_le {a' b' : Nat} (h : findNext prbs n s0 last = some (a, b)) (h' : IsGap prbs s0 (min n last) a' b') :
    a ≤ a' :=
  Nat.le_of_not_lt fun hlt => by
    have hset := (isGap_of_findNext h).2 a' h'.start_ge hlt
    exact absurd hset (by simp [h'.start_clear])

theorem not_isGap_of_findNext_none (h : findNext prbs n s0 last = none) : ¬IsGap prbs s0 (min n last) a b := fun hgap => by
  have hset := findNext_eq_none_iff.mp h a hgap.start_ge hgap.start_lt
  exact absurd hset (by simp [hgap.start_clear])

/-- The search finds the gap that begins first. -/
theorem findNext_of_first (h : IsGap prbs s0 (min n last) a b)
    (hfirst : ∀ a' b', IsGap prbs s0 (min n last) a' b' → a ≤ a') : findNext prbs n s0 last = some (a, b) := by
  cases hfind : findNext prbs n s0 last with
  | none => exact absurd h (not_isGap_of_findNext_none hfind)
  | some iv =>
    obtain ⟨hgap, -⟩ := isGap_of_findNext (a := iv.1) (b := iv.2) hfind
    have hle : iv.1 ≤ a := findNext_le (b := iv.2) hfind h
    obtain ⟨hstart, hstop⟩ := hgap.eq_of_touches h hle ((hfirst _ _ hgap).trans hgap.start_lt_stop.le)
    rw [hstart, hstop]

end

theorem exec_rbFindNext (startIdx : BitVec 16) (lastIdx : Word) (s : State) :
    exec (.rbFindNext startIdx lastIdx) s = .next (s.complete (require s.rbReady .badState
      (.ok (s.putInterval ((findNext s.rb.prbs s.rb.nprb.toNat startIdx.toNat lastIdx.toNat).getD (0, 0))
        (findNext s.rb.prbs s.rb.nprb.toNat startIdx.toNat lastIdx.toNat).isSome)))) := by
  simp only [exec, execRbFindNext]
  cases findNext s.rb.prbs s.rb.nprb.toNat startIdx.toNat lastIdx.toNat <;> rfl

/-- Settles O41: the search finds the first gap where there is one. -/
theorem findNextReturnsTheFirstGap : Obligations.FindNextReturnsTheFirstGap := by
  intro startIdx lastIdx s
  rw [exec_rbFindNext]
  refine ⟨decode_of_encode (i := .rbFindNext startIdx lastIdx) rfl, fun h => congrArg _ (State.complete_of_not_ready h),
    fun h hi hhi => ?_⟩
  subst hhi
  rw [State.complete_of_ready h, s.complete_ok]
  refine ⟨fun a b hgap hfirst => ?_, fun hnone => ?_⟩
  · rw [findNext_of_first hgap fun a' b' => hfirst a' b']
    rfl
  · cases hfind : findNext s.rb.prbs s.rb.nprb.toNat startIdx.toNat lastIdx.toNat with
    | none => rfl
    | some iv => exact absurd ⟨iv.1, iv.2, (isGap_of_findNext hfind).1⟩ hnone

/-! ### The scan for a length (R177) -/

/-- The answer that R177 asks for: the first gap that is long enough, cut to the length; else the earliest of the longest gaps; else
an empty interval. -/
def FirstFit (prbs : BitVec 275) (s0 n len a b : Nat) (found : Bool) : Prop :=
  (found = true ∧ b = a + len ∧ (∃ b', IsGap prbs s0 n a b' ∧ len ≤ b' - a)
      ∧ ∀ a' b', IsGap prbs s0 n a' b' → len ≤ b' - a' → a ≤ a')
    ∨ (found = false ∧ (∀ a' b', IsGap prbs s0 n a' b' → b' - a' < len) ∧ IsGap prbs s0 n a b
      ∧ ∀ a' b', IsGap prbs s0 n a' b' → b' - a' < b - a ∨ (b' - a' = b - a ∧ a ≤ a'))
    ∨ (found = false ∧ a = 0 ∧ b = 0 ∧ ¬∃ a' b', IsGap prbs s0 n a' b')

/-- What the loop of R177 knows when it searches on from `pos`: the gaps that begin before `pos` are too short, and `best` is the
earliest of the longest of them, or `(0, 0)` where there is none. -/
structure Scanned (prbs : BitVec 275) (s0 n len pos : Nat) (best : Nat × Nat) : Prop where
  start_le : s0 ≤ pos
  edge : pos = s0 ∨ n < pos ∨ prbs.getLsbD (pos - 1) = true
  short : ∀ a b, IsGap prbs s0 n a b → a < pos → b - a < len
  longest : ∀ a b, IsGap prbs s0 n a b → a < pos → b - a < best.2 - best.1 ∨ (b - a = best.2 - best.1 ∧ best.1 ≤ a)
  best_le : best.1 ≤ pos
  best_gap : best = (0, 0) ∨ IsGap prbs s0 n best.1 best.2

namespace Scanned

variable {prbs : BitVec 275} {s0 n len pos a b : Nat} {best : Nat × Nat}

theorem start (prbs : BitVec 275) (s0 n len : Nat) : Scanned prbs s0 n len s0 (0, 0) where
  start_le := Nat.le_refl s0
  edge := .inl rfl
  short := fun _ _ hgap hlt => absurd hgap.start_ge (Nat.not_le.mpr hlt)
  longest := fun _ _ hgap hlt => absurd hgap.start_ge (Nat.not_le.mpr hlt)
  best_le := Nat.zero_le s0
  best_gap := .inl rfl

/-- Where no gap is left, the best one seen is the answer. -/
theorem firstFit_of_end (h : Scanned prbs s0 n len pos best) (hend : ∀ a b, IsGap prbs s0 n a b → a < pos) :
    FirstFit prbs s0 n len best.1 best.2 false := by
  obtain rfl | hgap := h.best_gap
  · refine .inr (.inr ⟨rfl, rfl, rfl, fun ⟨a, b, hab⟩ => ?_⟩)
    have hlt := hab.start_lt_stop
    have := h.longest a b hab (hend a b hab)
    omega
  · exact .inr (.inl ⟨rfl, fun a b hab => h.short a b hab (hend a b hab), hgap,
      fun a b hab => h.longest a b hab (hend a b hab)⟩)

theorem lt_of_findNext_none (h : Scanned prbs s0 n len pos best) (hfind : findNext prbs n pos n = none)
    (hgap : IsGap prbs s0 n a b) : a < pos :=
  Nat.lt_of_not_le fun hle =>
    not_isGap_of_findNext_none hfind ((Nat.min_self n).symm ▸ (IsGap.from_iff h.start_le h.edge).mpr ⟨hgap, hle⟩)

/-- The gap that the next search finds is the first that begins at or after `pos`. -/
theorem isGap_of_findNext (h : Scanned prbs s0 n len pos best) (hfind : findNext prbs n pos n = some (a, b)) :
    IsGap prbs s0 n a b ∧ pos ≤ a ∧ ∀ a' b', IsGap prbs s0 n a' b' → pos ≤ a' → a ≤ a' := by
  obtain ⟨hgap, -⟩ := Machine.isGap_of_findNext hfind
  rw [Nat.min_self] at hgap
  obtain ⟨hgap, hpos⟩ := (IsGap.from_iff h.start_le h.edge).mp hgap
  exact ⟨hgap, hpos, fun a' b' hgap' hle =>
    findNext_le hfind ((Nat.min_self n).symm ▸ (IsGap.from_iff h.start_le h.edge).mpr ⟨hgap', hle⟩)⟩

/-- A gap that is long enough is the first such gap, since those before `pos` are too short. -/
theorem firstFit_of_long (h : Scanned prbs s0 n len pos best) (hfind : findNext prbs n pos n = some (a, b))
    (hlong : len ≤ b - a) : FirstFit prbs s0 n len a (a + len) true := by
  obtain ⟨hgap, -, hfirst⟩ := h.isGap_of_findNext hfind
  refine .inl ⟨rfl, rfl, ⟨b, hgap, hlong⟩, fun a' b' hgap' hlong' => hfirst a' b' hgap' (Nat.le_of_not_lt fun hlt => ?_)⟩
  exact absurd (h.short a' b' hgap' hlt) (Nat.not_lt.mpr hlong')

/-- Past a gap that is too short the scan goes on behind the bit that ends it. -/
theorem next (h : Scanned prbs s0 n len pos best) (hfind : findNext prbs n pos n = some (a, b)) (hshort : b - a < len) :
    Scanned prbs s0 n len (b + 1) (if b - a > best.2 - best.1 then (a, b) else best) := by
  obtain ⟨hgap, hpos, hfirst⟩ := h.isGap_of_findNext hfind
  have hlt := hgap.start_lt_stop
  have hseen : ∀ a' b', IsGap prbs s0 n a' b' → a' < b + 1 → a' < pos ∨ (a' = a ∧ b' = b) := fun a' b' hgap' hle =>
    (Nat.lt_or_ge a' pos).imp_right fun hge => hgap.eq_of_touches hgap' (hfirst a' b' hgap' hge) (Nat.le_of_lt_succ hle)
  exact
    { start_le := by have := h.start_le; omega
      edge := .inr (hgap.stop_edge.imp_left fun heq => by omega)
      short := fun a' b' hgap' hle => by
        obtain hbefore | ⟨rfl, rfl⟩ := hseen a' b' hgap' hle
        · exact h.short a' b' hgap' hbefore
        · exact hshort
      longest := fun a' b' hgap' hle => by
        have hbest := h.best_le
        obtain hbefore | ⟨rfl, rfl⟩ := hseen a' b' hgap' hle
        · have hold := h.longest a' b' hgap' hbefore
          split <;> omega
        · split <;> omega
      best_le := by
        have hbest := h.best_le
        split <;> omega
      best_gap := by
        split
        · exact .inr hgap
        · exact h.best_gap }

end Scanned

/-- With a pass left for every position the loop ends in the answer of R177. -/
theorem firstFit_findLenLoop {prbs : BitVec 275} {s0 n len fuel pos : Nat} {best : Nat × Nat}
    (h : Scanned prbs s0 n len pos best) (hfuel : n < pos + fuel) :
    FirstFit prbs s0 n len (findLenLoop prbs n len fuel pos best).1.1 (findLenLoop prbs n len fuel pos best).1.2
      (findLenLoop prbs n len fuel pos best).2 := by
  induction fuel generalizing pos best with
  | zero => exact h.firstFit_of_end fun a b hgap => hgap.start_lt.trans hfuel
  | succ fuel ih =>
    unfold findLenLoop
    split
    · split
      · next hfind => exact h.firstFit_of_end fun a b hgap => h.lt_of_findNext_none hfind hgap
      · next a b hfind =>
        split
        · next hlong => exact h.firstFit_of_long hfind hlong
        · next hshort =>
          obtain ⟨hgap, hpos, -⟩ := h.isGap_of_findNext hfind
          have hlt := hgap.start_lt_stop
          exact ih (h.next hfind (Nat.lt_of_not_le hshort)) (by omega)
    · next hend => exact h.firstFit_of_end fun a b hgap => hgap.start_lt.trans_le (Nat.le_of_not_lt hend)

theorem exec_rbFindLen (startIdx : BitVec 16) (len : Word) (s : State) :
    exec (.rbFindLen startIdx len) s = .next (s.complete (require s.rbReady .badState
      (.ok (s.putInterval (findLen s.rb.prbs s.rb.nprb.toNat startIdx.toNat len.toNat).1
        (findLen s.rb.prbs s.rb.nprb.toNat startIdx.toNat len.toNat).2)))) := rfl

/-- Settles O42: the loop starts with nothing scanned and `n + 1` passes. -/
theorem findLenIsFirstFit : Obligations.FindLenIsFirstFit := by
  intro startIdx len s
  rw [exec_rbFindLen]
  refine ⟨decode_of_encode (i := .rbFindLen startIdx len) rfl, fun h => congrArg _ (State.complete_of_not_ready h),
    fun h => ⟨_, _, _, ?_, firstFit_findLenLoop (fuel := s.rb.nprb.toNat + 1) (.start _ _ _ _) (by omega)⟩⟩
  rw [State.complete_of_ready h, s.complete_ok]
  rfl

end Sys2Proof.Machine
end

section
/-! The grant register of RBAU (42_grant_codec.md R190 to R195): the setters, the two accessors, and that no other command is
fatal. -/

namespace Sys2Proof.Machine

open Safety

/-! ### The setters (R190, R191) -/

theorem exec_rbGrantSetInterval (start : BitVec 16) (stop : Word) (s : State) :
    exec (.rbGrantSetInterval start stop) s = .next (s.complete
      (require (start.toNat ≤ stop.toNat ∧ stop.toNat ≤ 275) .badOperand
        (.ok { s with rb := { s.rb with
          gr := .type1 (BitVec.ofNat 9 start.toNat) (BitVec.ofNat 9 stop.toNat) } }))) := rfl

/-- A bound of an interval of the carrier fits a register of `GR` (10_state.md R54). -/
theorem toNat_grantBound {v : Nat} (h : v ≤ 511) : (BitVec.ofNat 9 v).toNat = v := by
  rw [BitVec.toNat_ofNat, Nat.mod_eq_of_lt (by omega)]

/-- Settles O45: the setter of an interval has the one precondition, under which both bounds fit; the tag is the variant's own. -/
theorem grantSettersReplaceTheGrant : Obligations.GrantSettersReplaceTheGrant := by
  intro s
  refine ⟨fun start stop => ⟨decode_of_encode (i := .rbGrantSetInterval start stop) rfl, fun hbad => ?_, fun hle hcarrier =>
      ⟨_, _, toNat_grantBound (by omega), toNat_grantBound (by omega), ?_⟩⟩,
    fun mask => ⟨decode_of_encode (i := .rbGrantSetRbgs mask) rfl, rfl⟩, decode_of_encode (i := .rbGrantType) rfl, ?_⟩
  · rw [exec_rbGrantSetInterval, s.complete_require_of_not hbad]
  · rw [exec_rbGrantSetInterval, require_of ⟨hle, hcarrier⟩, s.complete_ok]
  · show Host.Outcome.next (completedAs s { s with r := { s.r with r0 := word s.rb.gr.tag } }) = _
    cases s.rb.gr <;> rfl

/-! ### The accessors (R193, R194) -/

section

variable {s : State} {mask : BitVec 19} {start stop : BitVec 9}

theorem exec_rbGrantGetPrbs_of_type1 (hgr : s.rb.gr = .type1 start stop) :
    exec .rbGrantGetPrbs s = .next (completedAs s { s with r := { s.r with
      r0 := word start.toNat, r1 := word stop.toNat } }) := by
  simp only [exec, execRbGrantGetPrbs, hgr, word, BitVec.ofNat_toNat, s.complete_ok]

theorem exec_rbGrantGetPrbs_of_type0 (hgr : s.rb.gr = .type0 mask) :
    exec .rbGrantGetPrbs s = .next (s.complete (.fatal .variant)) := by
  simp only [exec, execRbGrantGetPrbs, hgr]

theorem exec_rbGrantGetRbgs_of_type0 (hgr : s.rb.gr = .type0 mask) :
    exec .rbGrantGetRbgs s = .next (completedAs s { s with r := { s.r with r0 := word mask.toNat } }) := by
  simp only [exec, execRbGrantGetRbgs, hgr, word, BitVec.ofNat_toNat, s.complete_ok]

theorem exec_rbGrantGetRbgs_of_type1 (hgr : s.rb.gr = .type1 start stop) :
    exec .rbGrantGetRbgs s = .next (s.complete (.fatal .variant)) := by
  simp only [exec, execRbGrantGetRbgs, hgr]

/-- A fatal error in an unlocked block is the cause that the lock keeps (60_exceptions.md R326). -/
theorem State.complete_fatal_of_unlocked (hfree : s.fatal = none) (c : FatalCause) :
    s.complete (.fatal c) = { s with status := c.code, fatal := some c, cseq := s.cseq + 1 } := by
  simp only [State.complete, hfree, Option.none_or]

end

/-- Settles O46: one equation for each accessor and variant. -/
theorem grantAccessorsReadTheirVariant : Obligations.GrantAccessorsReadTheirVariant := by
  refine fun s => ⟨decode_of_encode (i := .rbGrantGetPrbs) rfl, decode_of_encode (i := .rbGrantGetRbgs) rfl,
    fun start stop hgr => ⟨exec_rbGrantGetPrbs_of_type1 hgr, fun hfree => ?_⟩,
    fun mask hgr => ⟨exec_rbGrantGetRbgs_of_type0 hgr, fun hfree => ?_⟩⟩
  · rw [exec_rbGrantGetRbgs_of_type1 hgr, State.complete_fatal_of_unlocked hfree]
    rfl
  · rw [exec_rbGrantGetPrbs_of_type0 hgr, State.complete_fatal_of_unlocked hfree]
    rfl

/-! ### No other command is fatal (R195) -/

/-- The two codes of a fatal error (60_exceptions.md R320). -/
def Code.isFatal : Code → Bool
  | .fVariant | .fState => true
  | _ => false

theorem Code.isFatal_iff {e : Code} : e.isFatal = true ↔ e = .fVariant ∨ e = .fState := by
  cases e <;> decide

/-- The rule of a command ends neither in a fatal error nor in the code of one. -/
def Result.NoFatal : Result → Prop
  | .ok _ => True
  | .raise e => e.isFatal = false
  | .fatal _ => False

namespace Result.NoFatal

theorem ok {t : State} : NoFatal (.ok t) := trivial

theorem raise {e : Code} (he : e.isFatal = false) : NoFatal (.raise e) := he

theorem require {p : Prop} [Decidable p] {e : Code} {k : Result} (hk : NoFatal k) (he : e.isFatal = false := by rfl) :
    NoFatal (Machine.require p e k) := by
  by_cases hp : p
  · rwa [require_of hp]
  · rw [require_of_not hp]
    exact raise he

end Result.NoFatal

theorem subPduSize_noFatal {dir : Dir} {off len : Nat} {h : SubHeader} {e : Code}
    (herr : subPduSize dir off len h = .error e) : e.isFatal = false := by
  unfold subPduSize at herr
  dsimp only at herr
  repeat' split at herr
  all_goals cases herr
  all_goals rfl

theorem parseOne_noFatal {dir : Dir} {spCap : Nat} {c : Cursor} {h : SubHeader} {e : Code}
    (herr : parseOne dir spCap c h = .error e) : e.isFatal = false := by
  unfold parseOne at herr
  split at herr
  · next hsize =>
    cases herr
    exact subPduSize_noFatal hsize
  · repeat' split at herr
    all_goals cases herr
    all_goals rfl

theorem State.parseLoop_noFatal {s : State} {fuel : Nat} {c : Cursor} {e : Code}
    (herr : s.parseLoop fuel c = .error e) : e.isFatal = false := by
  induction fuel generalizing c with
  | zero => cases herr
  | succ fuel ih =>
    unfold State.parseLoop at herr
    split at herr
    · split at herr
      · cases herr
        rfl
      · split at herr
        · next hpass =>
          cases herr
          exact parseOne_noFatal hpass
        · exact ih herr
    · cases herr

theorem lbsrLoop_noFatal {bm : Nat} {vals : List Nat} {trunc : Bool} {left i : Nat} {acc : LongBsr} {e : Code}
    (herr : lbsrLoop bm vals trunc left i acc = .error e) : e.isFatal = false := by
  induction left generalizing i acc with
  | zero => cases herr
  | succ left ih =>
    unfold lbsrLoop at herr
    split at herr
    · split at herr
      · exact ih herr
      · split at herr
        · exact ih herr
        · cases herr
          rfl
    · exact ih herr

theorem Uci.genMux_noFatal {u : Uci} {gCap : Nat} {e : Code} (herr : u.genMux gCap = .error e) :
    e.isFatal = false := by
  unfold Uci.genMux at herr
  repeat' split at herr
  all_goals cases herr
  all_goals rfl

theorem State.append_noFatal (s : State) (lcid : BitVec 6) (f : Bool) (hlen slen : Nat) (pay : List Byte) :
    (s.append lcid f hlen slen pay).NoFatal :=
  .require (.require .ok)

theorem State.appendCe_noFatal (s : State) (dir : Dir) (lcid : BitVec 6) (pay : List Byte) :
    (s.appendCe dir lcid pay).NoFatal :=
  .require (.require (s.append_noFatal _ _ _ _ _))

/-- A command does not report a fatal code if its rule has no fatal end. -/
theorem Result.NoFatal.command {s : State} {res : Result} (h : res.NoFatal) :
    NextHas (fun t => t.status.isFatal = false) (.next (s.complete res)) := by
  cases res with
  | ok t => exact .next rfl
  | raise e => exact .next h
  | fatal c => exact h.elim

/-- Every command but the two accessors reports a code that is not fatal. -/
theorem exec_noFatal (i : Instr) (s : State) (hsub : i.isSubHeader = false) (hprbs : i ≠ .rbGrantGetPrbs)
    (hrbgs : i ≠ .rbGrantGetRbgs) : NextHas (fun t => t.status.isFatal = false) (exec i s) := by
  cases i with
  | rbGrantGetPrbs => exact absurd rfl hprbs
  | rbGrantGetRbgs => exact absurd rfl hrbgs
  | subhdr1B | subhdr2B | subhdr3B => cases hsub
  | sysReset => exact .next rfl
  | sysNop | macInitRx | macRelease | macChkLcid | rbGrantSetRbgs | rbGrantType => exact Result.NoFatal.command .ok
  | macInitTx | rbInit | rbClear | rbFindLen | rbGrantSetInterval | uciDemux =>
    exact Result.NoFatal.command (.require .ok)
  | csrWr | macPack | rbAddInterval | rbAddRbgs | rbAddGrant | rbCollides | rbGrantEncode | rbGrantDecode | rbPrb2Rbg
  | uciMux | uciScramble => exact Result.NoFatal.command (.require (.require .ok))
  | macAddCrntiCe | macAddSePhrCe | macAddSbsrCe | macAddConresCe =>
    exact Result.NoFatal.command (s.appendCe_noFatal _ _ _)
  | macAddSdu lcid len addr =>
    exact Result.NoFatal.command (.require (.require (.require (s.append_noFatal _ _ _ _ _))))
  | memWr space data addr =>
    refine Result.NoFatal.command ?_
    split
    · exact .raise rfl
    · exact .require (.require (.require (.require .ok)))
  | memRd space addr =>
    refine Result.NoFatal.command ?_
    split
    · exact .raise rfl
    · exact .require .ok
  | macUnpack len =>
    refine Result.NoFatal.command (.require (.require ?_))
    split
    · next herr => exact .raise (State.parseLoop_noFatal herr)
    · exact .ok
  | macGetSubpdu index =>
    refine Result.NoFatal.command (.require ?_)
    split
    · exact .raise rfl
    · exact .ok
  | macGetLbsr index =>
    refine Result.NoFatal.command (.require ?_)
    split
    · exact .raise rfl
    · refine .require (.require ?_)
      dsimp only
      split
      · next herr => exact .raise (lbsrLoop_noFatal herr)
      · exact .ok
  | rbFindNext startIdx lastIdx =>
    rw [exec_rbFindNext]
    exact Result.NoFatal.command (.require .ok)
  | uciGenMux =>
    refine Result.NoFatal.command ?_
    split
    · next herr => exact .raise (Uci.genMux_noFatal herr)
    · exact .ok

/-- Settles O10: an accessor of the wrong variant ends in `F_VARIANT`, and nothing else ends in a fatal code. -/
theorem onlyGrantAccessorsAreFatal : Obligations.OnlyGrantAccessorsAreFatal := by
  intro i s t hsub hexec hstatus
  have hfatal : t.status.isFatal = true := Code.isFatal_iff.mpr hstatus
  by_cases hprbs : i = .rbGrantGetPrbs
  · subst hprbs
    cases hgr : s.rb.gr with
    | type0 mask =>
      obtain rfl := Host.Outcome.next.inj ((exec_rbGrantGetPrbs_of_type0 hgr).symm.trans hexec)
      exact ⟨rfl, .inl ⟨rfl, mask, rfl⟩⟩
    | type1 start stop =>
      obtain rfl := Host.Outcome.next.inj ((exec_rbGrantGetPrbs_of_type1 hgr).symm.trans hexec)
      cases hfatal
  by_cases hrbgs : i = .rbGrantGetRbgs
  · subst hrbgs
    cases hgr : s.rb.gr with
    | type0 mask =>
      obtain rfl := Host.Outcome.next.inj ((exec_rbGrantGetRbgs_of_type0 hgr).symm.trans hexec)
      cases hfatal
    | type1 start stop =>
      obtain rfl := Host.Outcome.next.inj ((exec_rbGrantGetRbgs_of_type1 hgr).symm.trans hexec)
      exact ⟨rfl, .inr ⟨rfl, start, stop, rfl⟩⟩
  exact nomatch (exec_noFatal i s hsub hprbs hrbgs t hexec).symm.trans hfatal

end Sys2Proof.Machine
end

section
/-! The field codes of the grant (42_grant_codec.md R196 to R200): the mask in the opposite bit order, the RIV of an interval as a
number with two digits to the base `n`, and the two commands. -/

namespace Sys2Proof.Machine

open Safety

/-! ### The type-0 field (R196) -/

/-- What the fold of `reverseBits` sets: bit `k - 1 - g` for every `g` of the list whose bit in `m` is set. -/
theorem testBit_foldl_reverse (k m : Nat) (gs : List Nat) (acc i : Nat) :
    (gs.foldl (fun f g => if m.testBit g then f ||| (1 <<< (k - 1 - g)) else f) acc).testBit i = true
      ↔ acc.testBit i = true ∨ ∃ g ∈ gs, m.testBit g = true ∧ k - 1 - g = i := by
  induction gs generalizing acc with
  | nil => simp
  | cons g gs ih =>
    simp only [List.foldl_cons, ih, List.mem_cons, exists_eq_or_imp, ← or_assoc]
    refine or_congr_left ?_
    split
    · next hg => simp [hg, Nat.one_shiftLeft, Nat.testBit_two_pow]
    · next hg => simp [hg]

theorem testBit_reverseBits {k m i : Nat} :
    (reverseBits k m).testBit i = true ↔ i < k ∧ m.testBit (k - 1 - i) = true := by
  unfold reverseBits
  simp only [testBit_foldl_reverse, Nat.zero_testBit, Bool.false_eq_true, false_or, List.mem_range]
  constructor
  · rintro ⟨g, hg, hset, rfl⟩
    have hback : k - 1 - (k - 1 - g) = g := by omega
    exact ⟨by omega, hback.symm ▸ hset⟩
  · rintro ⟨hi, hset⟩
    exact ⟨k - 1 - i, by omega, hset, by omega⟩

theorem testBit_reverseBits_of_lt {k m g : Nat} (hg : g < k) :
    (reverseBits k m).testBit (k - 1 - g) = m.testBit g := by
  have hback : k - 1 - (k - 1 - g) = g := by omega
  rw [Bool.eq_iff_iff, testBit_reverseBits, hback]
  exact and_iff_right (by omega)

theorem reverseBits_lt (k m : Nat) : reverseBits k m < 2 ^ k :=
  Nat.lt_pow_two_of_testBit _ fun i hi => by
    rw [Bool.eq_false_iff, Ne, testBit_reverseBits]
    omega

theorem reverseBits_reverseBits {k m : Nat} (hm : m < 2 ^ k) : reverseBits k (reverseBits k m) = m := by
  apply Nat.eq_of_testBit_eq
  intro i
  by_cases hi : i < k
  · have hback : k - 1 - (k - 1 - i) = i := by omega
    calc (reverseBits k (reverseBits k m)).testBit i
        = (reverseBits k (reverseBits k m)).testBit (k - 1 - (k - 1 - i)) := by rw [hback]
      _ = (reverseBits k m).testBit (k - 1 - i) := testBit_reverseBits_of_lt (by omega)
      _ = m.testBit i := testBit_reverseBits_of_lt hi
  · have hpow : 2 ^ k ≤ 2 ^ i := Nat.pow_le_pow_right (by omega) (by omega)
    rw [Nat.testBit_lt_two_pow ((reverseBits_lt k _).trans_le hpow), Nat.testBit_lt_two_pow (hm.trans_le hpow)]

/-! ### The RIV (R197) -/

section

variable {n s l q r : Nat}

/-- A number of two digits to the base `n`: the high digit decides, then the low one. -/
theorem mul_add_lt_mul_add_iff {k t : Nat} (hr : r < n) (ht : t ≤ n) :
    n * q + r < n * k + t ↔ q < k ∨ (q = k ∧ r < t) := by
  obtain hlt | rfl | hgt := Nat.lt_trichotomy q k
  · have := Nat.mul_le_mul_left n (Nat.succ_le_of_lt hlt)
    rw [Nat.mul_succ] at this
    omega
  · omega
  · have := Nat.mul_le_mul_left n (Nat.succ_le_of_lt hgt)
    rw [Nat.mul_succ] at this
    omega

/-- There are `n(n+1)/2` codes: those whose high digit is at most `n/2`, without those that would name an interval of length
`n/2 + 1` a second time. -/
theorem mul_add_lt_rivCount_iff (hr : r < n) : n * q + r < rivCount n ↔ q ≤ n / 2 ∧ (2 * q = n → r < q) := by
  obtain ⟨m, hm⟩ | ⟨m, hm⟩ := n.even_or_odd
  · have hcount : rivCount n = n * m + m := by
      have htwice : n * (n + 1) = 2 * (n * m + m) := by rw [hm]; ring
      rw [rivCount, htwice, Nat.mul_div_cancel_left _ (by omega)]
    rw [hcount, mul_add_lt_mul_add_iff hr (by omega)]
    omega
  · have hcount : rivCount n = n * m + n := by
      have htwice : n * (n + 1) = 2 * (n * m + n) := by rw [hm]; ring
      rw [rivCount, htwice, Nat.mul_div_cancel_left _ (by omega)]
    rw [hcount, mul_add_lt_mul_add_iff hr (by omega)]
    omega

theorem riv_of_short (h : l - 1 ≤ n / 2) : riv n s l = n * (l - 1) + s := if_pos h

theorem riv_of_long (h : ¬l - 1 ≤ n / 2) : riv n s l = n * (n - l + 1) + (n - 1 - s) := if_neg h

/-- The inverse looks at the two digits. -/
theorem rivInverse_mul_add (hr : r < n) :
    rivInverse n (n * q + r) = if q + 1 + r ≤ n then (r, q + 1) else (n - 1 - r, n - (q + 1) + 2) := by
  have hdiv : (n * q + r) / n = q := by
    rw [Nat.mul_add_div (by omega), Nat.div_eq_of_lt hr, Nat.add_zero]
  have hmod : (n * q + r) % n = r := by rw [Nat.mul_add_mod, Nat.mod_eq_of_lt hr]
  simp only [rivInverse, hdiv, hmod]

/-- The code of an interval of the BWP is one of the `n(n+1)/2`, and the inverse gives the interval back. -/
theorem riv_lt_and_inverse (hl : 1 ≤ l) (hin : s + l ≤ n) : riv n s l < rivCount n ∧ rivInverse n (riv n s l) = (s, l) := by
  by_cases hshort : l - 1 ≤ n / 2
  · rw [riv_of_short hshort, mul_add_lt_rivCount_iff (by omega), rivInverse_mul_add (by omega), if_pos (by omega),
      Prod.mk.injEq]
    omega
  · rw [riv_of_long hshort, mul_add_lt_rivCount_iff (by omega), rivInverse_mul_add (by omega), if_neg (by omega),
      Prod.mk.injEq]
    omega

/-- The inverse of a code is an interval of the BWP with that code. -/
theorem riv_rivInverse {v : Nat} (hn : 1 ≤ n) (hv : v < rivCount n) :
    1 ≤ (rivInverse n v).2 ∧ (rivInverse n v).1 + (rivInverse n v).2 ≤ n
      ∧ riv n (rivInverse n v).1 (rivInverse n v).2 = v := by
  obtain ⟨q, r, hr, rfl⟩ : ∃ q r, r < n ∧ v = n * q + r := ⟨v / n, v % n, Nat.mod_lt v hn, (Nat.div_add_mod v n).symm⟩
  obtain ⟨hq, hhalf⟩ := (mul_add_lt_rivCount_iff hr).mp hv
  rw [rivInverse_mul_add hr]
  split
  · next hfit =>
    dsimp only
    refine ⟨by omega, by omega, ?_⟩
    rw [riv_of_short (by omega), Nat.add_sub_cancel]
  · next hlong =>
    dsimp only
    have hdigits : n - (n - (q + 1) + 2) + 1 = q ∧ n - 1 - (n - 1 - r) = r := by omega
    refine ⟨by omega, by omega, ?_⟩
    rw [riv_of_long (by omega), hdigits.1, hdigits.2]

end

/-- Settles O49: both directions look at the two digits of the code. -/
theorem rivNumbersTheIntervals : Obligations.RivNumbersTheIntervals :=
  fun _ hn => ⟨fun _ _ => riv_lt_and_inverse, fun _ => riv_rivInverse hn⟩

theorem rivCount_pos {n : Nat} (hn : 1 ≤ n) : 0 < rivCount n :=
  Nat.zero_lt_of_lt (riv_lt_and_inverse (n := n) (s := 0) (Nat.le_refl 1) (by omega)).1

/-- A code fits a result register: a BWP has a 9-bit size (10_state.md R38). -/
theorem rivCount_lt {n : Nat} (hn : n < 2 ^ 9) : rivCount n < 2 ^ 32 :=
  calc rivCount n ≤ n * (n + 1) := Nat.div_le_self _ _
    _ ≤ 2 ^ 9 * 2 ^ 9 := Nat.mul_le_mul hn.le hn
    _ < 2 ^ 32 := by decide

/-! ### The width of the type-1 field (R197) -/

theorem lt_two_pow_bitLength (v : Nat) : v < 2 ^ bitLength v := by
  unfold bitLength
  split
  · omega
  · exact Nat.lt_log2_self

theorem two_pow_le_of_lt_bitLength {v k : Nat} (hk : k < bitLength v) : 2 ^ k ≤ v := by
  unfold bitLength at hk
  split at hk
  · omega
  · next hv => exact (Nat.le_log2 hv).mp (Nat.le_of_lt_succ hk)

/-- The width is the least that holds every code. -/
theorem rivWidth_spec {n : Nat} (hn : 1 ≤ n) :
    rivCount n ≤ 2 ^ rivWidth n ∧ ∀ k, k < rivWidth n → 2 ^ k < rivCount n := by
  have hpos := rivCount_pos hn
  refine ⟨?_, fun k hk => ?_⟩
  · have : rivCount n - 1 < 2 ^ rivWidth n := lt_two_pow_bitLength _
    omega
  · have : 2 ^ k ≤ rivCount n - 1 := two_pow_le_of_lt_bitLength hk
    omega

/-! ### The two commands (R198, R200) -/

theorem exec_rbGrantEncode (s : State) :
    exec .rbGrantEncode s = .next (s.complete (require s.rbReady .badState
      (require (s.rb.encodable s.rb.gr) .badOperand
        (.ok { s with r := { s.r with
          r0 := word (s.rb.encodeGrant s.rb.gr).1, r1 := word (s.rb.encodeGrant s.rb.gr).2 } })))) := rfl

theorem exec_rbGrantDecode (type : AllocType) (field : Word) (s : State) :
    exec (.rbGrantDecode type field) s = .next (s.complete (require s.rbReady .badState
      (require (s.rb.decodable type field.toNat) .badOperand
        (.ok { s with rb := { s.rb with gr := s.rb.decodeGrant type field.toNat } })))) := rfl

theorem exec_rbGrantEncode_of_not_encodable {s : State} (hready : s.rb.nprb ≠ 0)
    (hbad : ¬s.rb.encodable s.rb.gr = true) : exec .rbGrantEncode s = .next (refusedWith s .badOperand) := by
  rw [exec_rbGrantEncode, State.complete_of_ready hready, s.complete_require_of_not hbad]

theorem exec_rbGrantEncode_of_encodable {s : State} (hready : s.rb.nprb ≠ 0) (hcode : s.rb.encodable s.rb.gr = true) :
    exec .rbGrantEncode s = .next (completedAs s { s with r := { s.r with
      r0 := word (s.rb.encodeGrant s.rb.gr).1, r1 := word (s.rb.encodeGrant s.rb.gr).2 } }) := by
  rw [exec_rbGrantEncode, State.complete_of_ready hready, require_of hcode, s.complete_ok]

section

variable {s : State} {type : AllocType} {field : Word}

theorem exec_rbGrantDecode_of_not_decodable (hready : s.rb.nprb ≠ 0) (hbad : ¬s.rb.decodable type field.toNat = true) :
    exec (.rbGrantDecode type field) s = .next (refusedWith s .badOperand) := by
  rw [exec_rbGrantDecode, State.complete_of_ready hready, s.complete_require_of_not hbad]

theorem exec_rbGrantDecode_of_decodable (hready : s.rb.nprb ≠ 0) (hcode : s.rb.decodable type field.toNat = true) :
    exec (.rbGrantDecode type field) s
      = .next (completedAs s { s with rb := { s.rb with gr := s.rb.decodeGrant type field.toNat } }) := by
  rw [exec_rbGrantDecode, State.complete_of_ready hready, require_of hcode, s.complete_ok]

end

section

variable {rb : Rb} {mask : BitVec 19} {start stop : BitVec 9} {field : Nat}

theorem Rb.encodable_type0_iff : rb.encodable (.type0 mask) = true ↔ mask.toNat < 2 ^ rb.nrbg.toNat := decide_eq_true_iff

theorem Rb.encodable_type1_iff :
    rb.encodable (.type1 start stop) = true ↔ 1 ≤ stop.toNat - start.toNat ∧ stop.toNat ≤ rb.nprb.toNat := by
  simp only [Rb.encodable, Bool.and_eq_true, decide_eq_true_eq]

theorem Rb.decodable_type0_iff : rb.decodable .type0 field = true ↔ field < 2 ^ rb.nrbg.toNat := decide_eq_true_iff

theorem Rb.decodable_type1_iff : rb.decodable .type1 field = true ↔ field < rivCount rb.nprb.toNat := decide_eq_true_iff

/-- A type-0 field has a bit for each RBG, of which the registers count fewer than 32 (10_state.md R38). -/
theorem Rb.reverseBits_lt_word (rb : Rb) (m : Nat) : reverseBits rb.nrbg.toNat m < 2 ^ 32 :=
  (reverseBits_lt _ _).trans (Nat.pow_lt_pow_right (by decide) rb.nrbg.isLt)

end

theorem one_le_nprb_of_ready {s : State} (hready : s.rb.nprb ≠ 0) : 1 ≤ s.rb.nprb.toNat :=
  Nat.one_le_iff_ne_zero.mpr (State.rbReady_iff.mpr hready)

/-- Settles O47: the field is the mask reversed, or the RIV; both fit a result register. -/
theorem grantEncodeGivesTheField : Obligations.GrantEncodeGivesTheField := by
  intro s
  refine ⟨fun h => ?_, fun h mask hgr => ?_, fun h start stop hgr => ?_⟩
  · rw [exec_rbGrantEncode, State.complete_of_not_ready h]
  · have hcode : s.rb.encodable s.rb.gr = true ↔ mask.toNat < 2 ^ s.rb.nrbg.toNat := by
      rw [hgr]
      exact Rb.encodable_type0_iff
    refine ⟨fun hbeyond => exec_rbGrantEncode_of_not_encodable h (mt hcode.mp (Nat.not_lt.mpr hbeyond)), fun hin =>
      ⟨word (reverseBits s.rb.nrbg.toNat mask.toNat), ?_, fun g hg => ?_, ?_⟩⟩
    · rw [exec_rbGrantEncode_of_encodable h (hcode.mpr hin), hgr]
      rfl
    · rw [← BitVec.testBit_toNat, toNat_word_of_lt (s.rb.reverseBits_lt_word _), testBit_reverseBits_of_lt hg,
        BitVec.testBit_toNat]
    · rw [toNat_word_of_lt (s.rb.reverseBits_lt_word _)]
      exact reverseBits_lt _ _
  · have hcode : s.rb.encodable s.rb.gr = true ↔ 1 ≤ stop.toNat - start.toNat ∧ stop.toNat ≤ s.rb.nprb.toNat := by
      rw [hgr]
      exact Rb.encodable_type1_iff
    refine ⟨fun hbad => exec_rbGrantEncode_of_not_encodable h (mt hcode.mp (by omega)), fun hlen hstop =>
      ⟨rivWidth s.rb.nprb.toNat, ?_, rivWidth_spec (one_le_nprb_of_ready h)⟩⟩
    rw [exec_rbGrantEncode_of_encodable h (hcode.mpr ⟨hlen, hstop⟩), hgr]
    rfl

/-- Settles O48: a field below the bound of its type is the code of the grant that the rule stores. -/
theorem grantDecodeStoresTheGrantOfTheField : Obligations.GrantDecodeStoresTheGrantOfTheField := by
  intro field s
  refine ⟨fun h type => ?_, fun h => ⟨fun hbeyond => ?_, fun hrbgs hin => ?_, fun hbeyond => ?_, fun hin => ?_⟩⟩
  · rw [exec_rbGrantDecode, State.complete_of_not_ready h]
  · exact exec_rbGrantDecode_of_not_decodable h (mt Rb.decodable_type0_iff.mp (Nat.not_lt.mpr hbeyond))
  · have hfits := reverseBits_lt s.rb.nrbg.toNat field.toNat
    have hmask : (BitVec.ofNat 19 (reverseBits s.rb.nrbg.toNat field.toNat)).toNat
        = reverseBits s.rb.nrbg.toNat field.toNat := by
      rw [BitVec.toNat_ofNat, Nat.mod_eq_of_lt (hfits.trans_le (Nat.pow_le_pow_right (by decide) hrbgs))]
    refine ⟨_, exec_rbGrantDecode_of_decodable h (Rb.decodable_type0_iff.mpr hin), fun g hg => ?_, hmask.trans_lt hfits⟩
    have hback : s.rb.nrbg.toNat - 1 - (s.rb.nrbg.toNat - 1 - g) = g := by omega
    rw [← BitVec.testBit_toNat, hmask, ← BitVec.testBit_toNat,
      ← testBit_reverseBits_of_lt (g := s.rb.nrbg.toNat - 1 - g) (k := s.rb.nrbg.toNat) (by omega), hback]
  · exact exec_rbGrantDecode_of_not_decodable h (mt Rb.decodable_type1_iff.mp (Nat.not_lt.mpr hbeyond))
  · obtain ⟨hlen, hstop, hriv⟩ := riv_rivInverse (one_le_nprb_of_ready h) hin
    have hn := s.rb.nprb.isLt
    refine ⟨_, _, exec_rbGrantDecode_of_decodable h (Rb.decodable_type1_iff.mpr hin), ?_⟩
    rw [toNat_grantBound (by omega), toNat_grantBound (by omega), Nat.add_sub_cancel_left]
    exact ⟨by omega, hstop, hriv⟩

/-! ### The round trip (R200) -/

/-- The `type` operand with which `RB.GRANT_DECODE` gives a grant of this variant. -/
def Grant.allocType : Grant → AllocType
  | .type0 _ => .type0
  | .type1 _ _ => .type1

theorem Grant.eq_allocType {gr : Grant} {type : AllocType} (h : type = .type0 ↔ ∃ mask, gr = .type0 mask) :
    type = gr.allocType := by
  cases gr with
  | type0 mask => exact h.mpr ⟨mask, rfl⟩
  | type1 start stop =>
    cases type with
    | type0 => exact nomatch h.mp rfl
    | type1 => rfl

/-- The field of a grant that has one is a code of its type, fits a result register, and decodes to the grant. -/
theorem Rb.decodeGrant_encodeGrant {rb : Rb} {gr : Grant} (h : rb.encodable gr = true) :
    (rb.encodeGrant gr).1 < 2 ^ 32 ∧ rb.decodable gr.allocType (rb.encodeGrant gr).1 = true
      ∧ rb.decodeGrant gr.allocType (rb.encodeGrant gr).1 = gr := by
  cases gr with
  | type0 mask =>
    have hmask := Rb.encodable_type0_iff.mp h
    refine ⟨rb.reverseBits_lt_word _, Rb.decodable_type0_iff.mpr (reverseBits_lt _ _), ?_⟩
    simp only [Grant.allocType, Rb.decodeGrant, Rb.encodeGrant, reverseBits_reverseBits hmask, BitVec.ofNat_toNat,
      BitVec.setWidth_eq]
  | type1 start stop =>
    obtain ⟨hlen, hstop⟩ := Rb.encodable_type1_iff.mp h
    obtain ⟨hcount, hinverse⟩ := riv_lt_and_inverse (s := start.toNat) hlen (n := rb.nprb.toNat) (by omega)
    have hback : start.toNat + (stop.toNat - start.toNat) = stop.toNat := by omega
    refine ⟨hcount.trans (rivCount_lt rb.nprb.isLt), Rb.decodable_type1_iff.mpr hcount, ?_⟩
    simp only [Grant.allocType, Rb.decodeGrant, Rb.encodeGrant, hinverse, hback, BitVec.ofNat_toNat, BitVec.setWidth_eq]

/-- What decoding looks at is the geometry, which the grant held is no part of. -/
theorem Rb.decode_congr {rb rb' : Rb} {gr : Grant} (h : { rb with gr := gr } = rb') (type : AllocType) (field : Nat) :
    rb.nprb = rb'.nprb ∧ rb.decodable type field = rb'.decodable type field
      ∧ rb.decodeGrant type field = rb'.decodeGrant type field := by
  subst h
  exact ⟨rfl, rfl, rfl⟩

/-- `RB.GRANT_ENCODE` that completes `OK` found a BWP and a grant with a field, which it returned. -/
theorem exec_rbGrantEncode_ok {s t : State} (hexec : exec .rbGrantEncode s = .next t) (hok : t.status = .ok) :
    s.rb.nprb ≠ 0 ∧ s.rb.encodable s.rb.gr = true ∧ t.r.r0 = word (s.rb.encodeGrant s.rb.gr).1 := by
  by_cases hready : s.rb.nprb = 0
  · rw [exec_rbGrantEncode, State.complete_of_not_ready hready] at hexec
    cases hexec
    cases hok
  by_cases hcode : s.rb.encodable s.rb.gr = true
  · rw [exec_rbGrantEncode_of_encodable hready hcode] at hexec
    cases hexec
    exact ⟨hready, hcode, rfl⟩
  · rw [exec_rbGrantEncode_of_not_encodable hready hcode] at hexec
    cases hexec
    cases hok

/-- Settles O50: decoding looks at the geometry alone, which is the same in both states. -/
theorem decodingAnEncodedGrantRestoresIt : Obligations.DecodingAnEncodedGrantRestoresIt := by
  intro s t u type _ hexec hok htype hgeometry
  obtain rfl := Grant.eq_allocType htype
  obtain ⟨hready, hcode, hr0⟩ := exec_rbGrantEncode_ok hexec hok
  obtain ⟨hfits, hdecodable, hdecode⟩ := Rb.decodeGrant_encodeGrant hcode
  have hfield : t.r.r0.toNat = (s.rb.encodeGrant s.rb.gr).1 := by rw [hr0, toNat_word_of_lt hfits]
  obtain ⟨hnprb, hcodes, hgrant⟩ := Rb.decode_congr hgeometry s.rb.gr.allocType (s.rb.encodeGrant s.rb.gr).1
  refine ⟨_, exec_rbGrantDecode_of_decodable (hnprb ▸ hready) ?_, rfl, ?_⟩
  · rw [hfield, hcodes, hdecodable]
  · rw [hfield, hgrant, hdecode]
    exact hgeometry

end Sys2Proof.Machine
end

section
/-! The commands that open and close a MACU session and the LCID check (43_mac_parse.md R211 to R220, 44_mac_pack.md R250, R268). -/

namespace Sys2Proof.Machine

open Safety

/-! ### The LCID check (R218) -/

theorem code_lcidClass (dir : Dir) (lcid : BitVec 6) :
    (lcidClass lcid.toNat dir).code = (lcidTable dir lcid.toNat).1 := by
  revert lcid
  cases dir <;> decide

theorem fixedSize_eq_table (dir : Dir) (lcid : BitVec 6) : fixedSize lcid.toNat dir = (lcidTable dir lcid.toNat).2 := by
  revert lcid
  cases dir <;> decide

theorem LcidClass.eq_invalid_iff {k : LcidClass} : k = .invalid ↔ k.code = 0 := by
  cases k <;> decide

/-- Settles O19: each of the three results is read off the table of R211. -/
theorem checkLcidReportsTheTables : Obligations.CheckLcidReportsTheTables := by
  intro lcid dir s
  constructor
  · cases dir with
    | dl => exact decode_of_encode (i := .macChkLcid lcid .dl) rfl
    | ul => exact decode_of_encode (i := .macChkLcid lcid .ul) rfl
  · simp only [exec, execMacChkLcid, s.complete_ok, LcidClass.eq_invalid_iff, code_lcidClass, fixedSize_eq_table]

/-! ### The session (R220, R250, R268) -/

theorem exec_macInitTx (dir : Dir) (tbLen : Word) (s : State) :
    exec (.macInitTx dir tbLen) s = .next (s.complete (require (tbLen.toNat ≤ s.params.tbCap) .badOperand
      (.ok { s with mac := ⟨.tx, dir, tbLen, tbLen, 0, []⟩ }))) := rfl

/-- Settles O20: only `MAC.INIT_TX` has a precondition. -/
theorem sessionCommandsSetMacu : Obligations.SessionCommandsSetMacu := by
  intro dir tbLen s
  rw [exec_macInitTx]
  refine ⟨rfl, fun hfits => ?_, fun hbeyond => ?_, rfl⟩
  · rw [require_of hfits, s.complete_ok]
  · rw [s.complete_require_of_not (Nat.not_le.mpr hbeyond)]

end Sys2Proof.Machine
end

section
/-! The parse of a block (43_mac_parse.md R222, R224): the loop by its passes, the run of the sub-headers (log entry 5), the sub-PDU
that a sub-header opens, and the blocks that are a sequence of sub-PDUs. -/

namespace Sys2Proof.Machine

open Safety

/-! ### The loop by its passes -/

/-- The sub-header at the cursor by the numbers of its bytes, with its length field if it has one that is not cut off
(30_encoding.md R110 to R112). -/
def State.subHeaderAt (s : State) (c : Cursor) : SubHeader where
  f := decide (s.read .tb c.off / 64 % 2 = 1)
  lcid := BitVec.ofNat 6 (s.read .tb c.off % 64)
  len :=
    if hasLength (s.read .tb c.off % 64) s.mac.dir
        ∧ c.off + 1 + (if s.read .tb c.off / 64 % 2 = 1 then 2 else 1) ≤ c.len then
      some (if s.read .tb c.off / 64 % 2 = 1 then 256 * s.read .tb (c.off + 1) + s.read .tb (c.off + 2)
        else s.read .tb (c.off + 1))
    else none

/-- The sub-header that the loop fetches is the one at the cursor. -/
theorem State.fetchSubHeader_at (s : State) (c : Cursor) :
    (s.fetchSubHeader c).toOption.bind subHeaderOf = some (s.subHeaderAt c) :=
  s.fetchSubHeader_eq c

/-- One pass of the loop at the cursor. -/
abbrev State.passAt (s : State) (c : Cursor) : Except Code Cursor :=
  parseOne s.mac.dir s.params.spCap c (s.subHeaderAt c)

section

variable {s : State} {c c' : Cursor} {e : Code}

theorem State.parseLoop_of_end (hend : c.len ≤ c.off) (fuel : Nat) : s.parseLoop fuel c = .ok c := by
  cases fuel with
  | zero => rfl
  | succ fuel => exact if_neg (Nat.not_lt.mpr hend)

theorem State.parseLoop_of_error (hmore : c.off < c.len) (hpass : s.passAt c = .error e) (fuel : Nat) :
    s.parseLoop (fuel + 1) c = .error e := by
  simp only [State.parseLoop, if_pos hmore, s.fetchSubHeader_at, hpass]

theorem State.parseLoop_of_pass (hmore : c.off < c.len) (hpass : s.passAt c = .ok c') (fuel : Nat) :
    s.parseLoop (fuel + 1) c = s.parseLoop fuel c' := by
  simp only [State.parseLoop, if_pos hmore, s.fetchSubHeader_at, hpass]

/-- Induction along a parse: it is at the end of the block, or its next pass fails, or its next pass moves the cursor up. -/
theorem State.parse_induction (s : State) {motive : Cursor → Prop}
    (atEnd : ∀ c, c.len ≤ c.off → motive c)
    (error : ∀ c e, c.off < c.len → s.passAt c = .error e → motive c)
    (pass : ∀ c c', c.off < c.len → s.passAt c = .ok c' → motive c' → motive c) (c : Cursor) : motive c := by
  induction hleft : c.len - c.off using Nat.strong_induction_on generalizing c with
  | _ left ih =>
    by_cases hmore : c.off < c.len
    · cases hpass : s.passAt c with
      | error e => exact error c e hmore hpass
      | ok c' =>
        obtain ⟨hup, -, hlen⟩ := parseOne_off hpass
        exact pass c c' hmore hpass (ih _ (by omega) c' rfl)
    · exact atEnd c (Nat.le_of_not_lt hmore)

/-- Passes beyond those that the rest of the block can hold change nothing. -/
theorem State.parseLoop_enough (s : State) (c : Cursor) :
    ∀ fuel, c.len - c.off ≤ fuel → s.parseLoop fuel c = s.parseLoop (c.len - c.off) c := by
  induction c using s.parse_induction with
  | atEnd c hend => intro fuel _; rw [State.parseLoop_of_end hend, State.parseLoop_of_end hend]
  | error c e hmore hpass =>
    intro fuel hfuel
    obtain ⟨n, rfl⟩ := Nat.exists_eq_add_one.mpr (show 0 < fuel by omega)
    obtain ⟨m, hm⟩ := Nat.exists_eq_add_one.mpr (show 0 < c.len - c.off by omega)
    rw [hm, State.parseLoop_of_error hmore hpass, State.parseLoop_of_error hmore hpass]
  | pass c c' hmore hpass ih =>
    intro fuel hfuel
    obtain ⟨hup, -, hlen⟩ := parseOne_off hpass
    obtain ⟨n, rfl⟩ := Nat.exists_eq_add_one.mpr (show 0 < fuel by omega)
    obtain ⟨m, hm⟩ := Nat.exists_eq_add_one.mpr (show 0 < c.len - c.off by omega)
    rw [hm, State.parseLoop_of_pass hmore hpass, State.parseLoop_of_pass hmore hpass, ih n (by omega), ih m (by omega)]

/-! ### How a parse ends -/

/-- How the rule of `MAC.UNPACK` ends from the cursor on: with the commit, or with the code of the pass that fails (R222). -/
def State.parseResult (s : State) (c : Cursor) : Result :=
  match s.parseLoop (c.len - c.off) c with
  | .error e => .raise e
  | .ok c => .ok (s.commitParse c)

theorem State.parseResult_of_end (hend : c.len ≤ c.off) : s.parseResult c = .ok (s.commitParse c) := by
  simp only [State.parseResult, State.parseLoop_of_end hend]

theorem State.parseResult_of_error (hmore : c.off < c.len) (hpass : s.passAt c = .error e) :
    s.parseResult c = .raise e := by
  obtain ⟨m, hm⟩ := Nat.exists_eq_add_one.mpr (show 0 < c.len - c.off by omega)
  simp only [State.parseResult, hm, State.parseLoop_of_error hmore hpass]

theorem State.parseResult_of_pass (hmore : c.off < c.len) (hpass : s.passAt c = .ok c') :
    s.parseResult c = s.parseResult c' := by
  obtain ⟨hup, -, hlen⟩ := parseOne_off hpass
  obtain ⟨m, hm⟩ := Nat.exists_eq_add_one.mpr (show 0 < c.len - c.off by omega)
  simp only [State.parseResult, hm, State.parseLoop_of_pass hmore hpass, s.parseLoop_enough c' m (by omega)]

end

theorem exec_macUnpack (len : Word) (s : State) :
    exec (.macUnpack len) s = .next (s.complete (require (s.mac.mode = .rx) .badState
      (require (len.toNat ≤ s.params.tbCap) .badOperand (s.parseResult ⟨0, len.toNat, []⟩)))) := rfl

theorem exec_macUnpack_of_accepted {len : Word} {s : State} (hrx : s.mac.mode = .rx) (hcap : len.toNat ≤ s.params.tbCap) :
    exec (.macUnpack len) s = .next (s.complete (s.parseResult ⟨0, len.toNat, []⟩)) := by
  rw [exec_macUnpack, require_of hrx, require_of hcap]

/-! ### The run of the sub-headers (log entry 5) -/

/-- A step of the parse in progress runs the sub-header at the cursor. -/
theorem step_of_cursor {s : State} {c : Cursor} (hmore : c.off < c.len) :
    step { s with cursor := c } = .next ({ s with cursor := c }.parseSubHeader (s.subHeaderAt c)) := by
  obtain ⟨h, hfetch, hstep⟩ := stepSubHeader_eq { s with cursor := c }
  obtain rfl : s.subHeaderAt c = h := Option.some.inj ((s.fetchSubHeader_at c).symm.trans hfetch)
  rw [step_of_parse hmore, hstep]

theorem run_succ_of_step {s t : State} (h : step s = .next t) (k : Nat) :
    Host.Core.run core (k + 1) s = Host.Core.run core k t := by
  have hstep : core.step s = .next t := h
  simp only [Host.Core.run, hstep]

/-- From a cursor inside the block, the steps of the parse end as the loop from that cursor does. -/
theorem State.exists_run_eq_parseResult {s : State} (hidle : s.cursor = .idle) (c : Cursor) : c.off < c.len →
    ∃ k, Host.Core.run core k { s with cursor := c } = .next (s.complete (s.parseResult c)) := by
  induction c using s.parse_induction with
  | atEnd c hend => exact fun hmore => absurd hmore (Nat.not_lt.mpr hend)
  | error c e hmore hpass =>
    refine fun _ => ⟨1, ?_⟩
    rw [run_succ_of_step (step_of_cursor hmore), State.parseSubHeader_of_error hmore hpass,
      State.parseResult_of_error hmore hpass]
    show Host.Outcome.next (refusedWith { s with cursor := .idle } e) = .next (refusedWith s e)
    rw [← hidle]
  | pass c c' hmore hpass ih =>
    intro _
    by_cases hmore' : c'.off < c'.len
    · obtain ⟨k, hk⟩ := ih hmore'
      refine ⟨k + 1, ?_⟩
      rw [run_succ_of_step (step_of_cursor hmore), State.parseSubHeader_of_ok hmore hpass, if_pos hmore',
        State.parseResult_of_pass hmore hpass]
      exact hk
    · refine ⟨1, ?_⟩
      rw [run_succ_of_step (step_of_cursor hmore), State.parseSubHeader_of_ok hmore hpass, if_neg hmore',
        State.parseResult_of_pass hmore hpass, State.parseResult_of_end (Nat.le_of_not_lt hmore')]
      rfl

/-- Settles O27: the run from byte 0 on. -/
theorem unpackIsTheRunOfItsSubHeaders : Obligations.UnpackIsTheRunOfItsSubHeaders := by
  intro len s hrx hcap hpos hidle
  rw [exec_macUnpack_of_accepted hrx hcap]
  exact State.exists_run_eq_parseResult hidle ⟨0, len.toNat, []⟩ hpos

/-! ### The sub-PDU that a sub-header opens (R222, 10_state.md R50) -/

/-- What the bytes at offset `off` of a block of `len` bytes say of the sizes of the sub-PDU there: its LCID is valid, and header
and payload have `hlen` and `slen` bytes. -/
def Sizes (dir : Dir) (byteAt : Nat → Nat) (len off hlen slen : Nat) : Prop :=
  isValidLcid (byteAt off % 64) dir = true
    ∧ (if hasLength (byteAt off % 64) dir then
        if byteAt off / 64 % 2 = 1 then hlen = 3 ∧ slen = 256 * byteAt (off + 1) + byteAt (off + 2)
        else hlen = 2 ∧ slen = byteAt (off + 1)
      else if byteAt off % 64 = 63 then hlen = 1 ∧ slen = len - off - 1
      else hlen = 1 ∧ ceSize (byteAt off % 64) dir = some slen)

theorem opens_iff_sizes {dir : Dir} {byteAt : Nat → Nat} {len off : Nat} {d : Desc} :
    Opens dir byteAt len off d ↔ d.lcid.toNat = byteAt off % 64 ∧ d.f.toNat = byteAt off / 64 % 2
      ∧ d.soff.toNat = off + d.hlen.toNat ∧ off + d.hlen.toNat + d.slen.toNat ≤ len
      ∧ Sizes dir byteAt len off d.hlen.toNat d.slen.toNat := by
  have hpad : d.lcid = 63 ↔ d.lcid.toNat = 63 := BitVec.toNat_inj.symm
  have hhlen : ∀ n : BitVec 2, d.hlen = n ↔ d.hlen.toNat = n.toNat := fun n => BitVec.toNat_inj.symm
  have hlong : d.f = true ↔ d.f.toNat = 1 := Bool.toNat_eq_one.symm
  unfold Opens Sizes
  simp only [hpad, hhlen, hlong]
  refine and_congr_right fun hlcid => and_congr_right fun hf => ?_
  rw [hlcid, hf]
  rfl

/-- A descriptor is the one of some numbers exactly where its fields are these numbers. -/
theorem eq_mkDesc_iff {d : Desc} {lcid : BitVec 6} {f : Bool} {hlen slen soff : Nat} (hh : hlen < 4) (hs : slen < 2 ^ 32)
    (ho : soff < 2 ^ 32) : d = mkDesc lcid f hlen slen soff ↔
      d.lcid = lcid ∧ d.f = f ∧ d.hlen.toNat = hlen ∧ d.slen.toNat = slen ∧ d.soff.toNat = soff := by
  constructor
  · rintro rfl
    exact ⟨rfl, rfl, Nat.mod_eq_of_lt hh, toNat_word_of_lt hs, toNat_word_of_lt ho⟩
  · obtain ⟨lcid', f', hlen', slen', soff'⟩ := d
    rintro ⟨rfl, rfl, rfl, rfl, rfl⟩
    simp [mkDesc]

section

variable {s : State} {c : Cursor} {d : Desc}

theorem State.subHeaderAt_lcid (s : State) (c : Cursor) : (s.subHeaderAt c).lcid.toNat = s.read .tb c.off % 64 := by
  show (BitVec.ofNat 6 _).toNat = _
  rw [BitVec.toNat_ofNat, Nat.mod_mod]

theorem State.subHeaderAt_f (s : State) (c : Cursor) :
    (s.subHeaderAt c).f = decide (s.read .tb c.off / 64 % 2 = 1) := rfl

theorem State.eq_subHeaderAt_f_iff {b : Bool} : b = (s.subHeaderAt c).f ↔ b.toNat = s.read .tb c.off / 64 % 2 := by
  have := Nat.mod_two_eq_zero_or_one (s.read .tb c.off / 64)
  rw [s.subHeaderAt_f]
  cases b <;> simp <;> omega

theorem State.subHeaderAt_len_of_inside (hlength : hasLength (s.read .tb c.off % 64) s.mac.dir = true)
    (hin : c.off + 1 + (if s.read .tb c.off / 64 % 2 = 1 then 2 else 1) ≤ c.len) : (s.subHeaderAt c).len = some
      (if s.read .tb c.off / 64 % 2 = 1 then 256 * s.read .tb (c.off + 1) + s.read .tb (c.off + 2)
        else s.read .tb (c.off + 1)) :=
  if_pos ⟨hlength, hin⟩

theorem State.subHeaderAt_len_of_cut
    (hcut : c.len < c.off + 1 + (if s.read .tb c.off / 64 % 2 = 1 then 2 else 1)) : (s.subHeaderAt c).len = none :=
  if_neg fun ⟨_, hin⟩ => absurd hin (Nat.not_le.mpr hcut)

/-- The parser finds the sizes that the bytes give, where they leave the sub-PDU in the block. -/
theorem subPduSize_at_iff {hlen slen : Nat} (hfits : c.off + hlen + slen ≤ c.len) :
    subPduSize s.mac.dir c.off c.len (s.subHeaderAt c) = .ok (hlen, slen)
      ↔ Sizes s.mac.dir (s.read .tb) c.len c.off hlen slen := by
  unfold subPduSize Sizes
  simp only [s.subHeaderAt_lcid]
  by_cases hvalid : isValidLcid (s.read .tb c.off % 64) s.mac.dir = true
  case neg => simp [hvalid]
  by_cases hlength : hasLength (s.read .tb c.off % 64) s.mac.dir = true
  · by_cases hin : c.off + 1 + (if s.read .tb c.off / 64 % 2 = 1 then 2 else 1) ≤ c.len
    · simp only [hvalid, hlength, State.subHeaderAt_len_of_inside hlength hin, State.subHeaderAt_f]
      by_cases hlong : s.read .tb c.off / 64 % 2 = 1
      · simp only [hlong, decide_true, Bool.not_true, Bool.false_eq_true, if_true, if_false, Except.ok.injEq, Prod.mk.injEq,
          true_and]
        omega
      · simp only [hlong, decide_false, Bool.not_true, Bool.false_eq_true, if_true, if_false, Except.ok.injEq, Prod.mk.injEq,
          true_and]
        omega
    · simp only [hvalid, hlength, State.subHeaderAt_len_of_cut (Nat.lt_of_not_le hin)]
      by_cases hlong : s.read .tb c.off / 64 % 2 = 1
      · simp only [hlong, Bool.not_true, Bool.false_eq_true, if_true, if_false, reduceCtorEq, true_and, false_iff] at hin ⊢
        omega
      · simp only [hlong, Bool.not_true, Bool.false_eq_true, if_true, if_false, reduceCtorEq, true_and, false_iff] at hin ⊢
        omega
  · by_cases hpad : s.read .tb c.off % 64 = 63
    · simp only [hvalid, hlength, if_pos hpad, Bool.not_true, Bool.false_eq_true, if_false, Except.ok.injEq, Prod.mk.injEq,
        true_and]
      omega
    · cases hsize : ceSize (s.read .tb c.off % 64) s.mac.dir with
      | none => simp [hvalid, hlength, hpad]
      | some n =>
        simp only [hvalid, hlength, hpad, Bool.not_true, Bool.false_eq_true, if_false, Except.ok.injEq, Prod.mk.injEq,
          Option.some.injEq, true_and]
        omega

/-- The descriptors that `Opens` means are those that one pass of the loop adds. -/
theorem opens_iff (hlen : c.len < 2 ^ 32) : Opens s.mac.dir (s.read .tb) c.len c.off d ↔
    ∃ hlen slen, subPduSize s.mac.dir c.off c.len (s.subHeaderAt c) = .ok (hlen, slen) ∧ c.off + hlen + slen ≤ c.len
      ∧ d = mkDesc (s.subHeaderAt c).lcid (s.subHeaderAt c).f hlen slen (c.off + hlen) := by
  rw [opens_iff_sizes, ← s.subHeaderAt_lcid, ← State.eq_subHeaderAt_f_iff, BitVec.toNat_inj]
  constructor
  · rintro ⟨hlcid, hf, hsoff, hfits, hsizes⟩
    exact ⟨_, _, (subPduSize_at_iff hfits).mpr hsizes, hfits,
      (eq_mkDesc_iff d.hlen.isLt d.slen.isLt (by omega)).mpr ⟨hlcid, hf, rfl, rfl, hsoff⟩⟩
  · rintro ⟨hlen, slen, hsize, hfits, hd⟩
    have := subPduSize_hlen hsize
    obtain ⟨hlcid, hf, rfl, rfl, hsoff⟩ := (eq_mkDesc_iff (by omega) (by omega) (by omega)).mp hd
    exact ⟨hlcid, hf, hsoff, hfits, (subPduSize_at_iff hfits).mp hsize⟩

/-- One pass behind which the parse goes on: the sub-PDU opened at the cursor finds a free entry. -/
theorem passAt_of_opens (hopens : Opens s.mac.dir (s.read .tb) c.len c.off d) (hlen : c.len < 2 ^ 32)
    (hfree : c.list.length ≠ s.params.spCap) :
    s.passAt c = .ok ⟨c.off + wireSize d, c.len, c.list ++ [d]⟩ := by
  obtain ⟨hlen', slen, hsize, hfits, rfl⟩ := (opens_iff hlen).mp hopens
  have := subPduSize_hlen hsize
  obtain ⟨-, -, hh, hs, -⟩ := (eq_mkDesc_iff (by omega) (by omega) (by omega)).mp
    (rfl : mkDesc (s.subHeaderAt c).lcid (s.subHeaderAt c).f hlen' slen (c.off + hlen') = _)
  refine parseOne_eq_ok.mpr ⟨hlen', slen, hsize, hfits, hfree, ?_⟩
  rw [wireSize, hh, hs, Nat.add_assoc]

/-- A pass that succeeds met a sub-PDU that the bytes at the cursor open. -/
theorem opens_of_passAt {c' : Cursor} (hpass : s.passAt c = .ok c') (hlen : c.len < 2 ^ 32) :
    ∃ d, Opens s.mac.dir (s.read .tb) c.len c.off d ∧ c.list.length ≠ s.params.spCap
      ∧ c' = ⟨c.off + wireSize d, c.len, c.list ++ [d]⟩ := by
  obtain ⟨hlen', slen, hsize, hfits, hfree, -⟩ := parseOne_eq_ok.mp hpass
  have hopens := (opens_iff hlen).mpr ⟨hlen', slen, hsize, hfits, rfl⟩
  exact ⟨_, hopens, hfree, Except.ok.inj (hpass.symm.trans (passAt_of_opens hopens hlen hfree))⟩

end

/-! ### Blocks that are a sequence of sub-PDUs (R224) -/

/-- The parse of sub-PDUs that stand in the block one after another, with room in the table, goes on behind them. -/
theorem State.parseResult_of_parsesUpTo {s : State} {len : Nat} (hlen : len < 2 ^ 32) {ds : List Desc} :
    ∀ {off stop : Nat} {list : List Desc}, ParsesUpTo s.mac.dir (s.read .tb) len off ds stop →
      list.length + ds.length ≤ s.params.spCap →
      s.parseResult ⟨off, len, list⟩ = s.parseResult ⟨stop, len, list ++ ds⟩ := by
  induction ds with
  | nil =>
    intro off stop list hstop hroom
    obtain rfl : off = stop := hstop
    rw [List.append_nil]
  | cons d ds ih =>
    intro off stop list hparses hroom
    obtain ⟨hmore, hopens, hrest⟩ := hparses
    rw [List.length_cons] at hroom
    have hfree : list.length ≠ s.params.spCap := by omega
    rw [State.parseResult_of_pass hmore (passAt_of_opens (c := ⟨off, len, list⟩) hopens hlen hfree),
      ih (list := list ++ [d]) hrest (by rw [List.length_append, List.length_singleton]; omega), List.append_assoc,
      List.singleton_append]

theorem subPduSize_error {dir : Dir} {off len : Nat} {h : SubHeader} {e : Code}
    (herr : subPduSize dir off len h = .error e) : e = .malformedPdu ∨ e = .unsupportedLcid := by
  unfold subPduSize at herr
  dsimp only at herr
  repeat' split at herr
  all_goals cases herr
  all_goals simp

/-- The codes with which a pass refuses the block (R222). -/
theorem parseOne_error {dir : Dir} {spCap : Nat} {c : Cursor} {h : SubHeader} {e : Code}
    (herr : parseOne dir spCap c h = .error e) : e ∈ [Code.malformedPdu, Code.unsupportedLcid, Code.tableFull] := by
  unfold parseOne at herr
  split at herr
  · next hsize =>
    cases herr
    obtain rfl | rfl := subPduSize_error hsize <;> decide
  · repeat' split at herr
    all_goals cases herr
    all_goals decide

/-- A parse has two ends: the rest of the block is a sequence of sub-PDUs for which the table has room, or a pass refuses it. -/
theorem State.parseResult_cases (s : State) (c : Cursor) :
    c.off ≤ c.len → c.len < 2 ^ 32 → c.list.length ≤ s.params.spCap →
    (∃ ds : List Desc, c.list.length + ds.length ≤ s.params.spCap ∧ BlockParses s.mac.dir (s.read .tb) c.len c.off ds)
      ∨ ∃ e ∈ [Code.malformedPdu, Code.unsupportedLcid, Code.tableFull], s.parseResult c = .raise e := by
  induction c using s.parse_induction with
  | atEnd c hend => exact fun hin _ hroom => .inl ⟨[], hroom, Nat.le_antisymm hin hend⟩
  | error c e hmore hpass => exact fun _ _ _ => .inr ⟨e, parseOne_error hpass, State.parseResult_of_error hmore hpass⟩
  | pass c c' hmore hpass ih =>
    intro _ hlen hroom
    rw [State.parseResult_of_pass hmore hpass]
    obtain ⟨d, hopens, hfree, rfl⟩ := opens_of_passAt hpass hlen
    obtain ⟨-, hin, -⟩ := parseOne_off hpass
    obtain ⟨ds, hds, hparses⟩ | hrefused := ih hin hlen
      (by rw [List.length_append, List.length_singleton]; omega)
    · rw [List.length_append, List.length_singleton] at hds
      exact .inl ⟨d :: ds, by rw [List.length_cons]; omega, hmore, hopens, hparses⟩
    · exact .inr hrefused

/-- The sizes of a sub-PDU that lies in the block are a matter of the bytes of the block. -/
theorem sizes_congr {dir : Dir} {f g : Nat → Nat} {len off hlen slen : Nat} (hfg : ∀ a, a < len → f a = g a)
    (hoff : off < len) (hfits : off + hlen + slen ≤ len) (h : Sizes dir f len off hlen slen) : Sizes dir g len off hlen slen := by
  unfold Sizes at h ⊢
  rw [hfg off hoff] at h
  obtain ⟨hvalid, hsize⟩ := h
  refine ⟨hvalid, ?_⟩
  split at hsize
  · split at hsize
    · next hlength hlong =>
      obtain ⟨hthree, hfield⟩ := hsize
      rw [if_pos hlength, if_pos hlong, ← hfg _ (by omega), ← hfg _ (by omega)]
      exact ⟨hthree, hfield⟩
    · next hlength hshort =>
      obtain ⟨htwo, hfield⟩ := hsize
      rw [if_pos hlength, if_neg hshort, ← hfg _ (by omega)]
      exact ⟨htwo, hfield⟩
  · next hlength =>
    rw [if_neg hlength]
    exact hsize

/-- What a block parses to is a matter of its own bytes. -/
theorem parsesUpTo_congr {dir : Dir} {f g : Nat → Nat} {len : Nat} (hfg : ∀ a, a < len → f a = g a) {ds : List Desc} :
    ∀ {off stop : Nat}, ParsesUpTo dir f len off ds stop → ParsesUpTo dir g len off ds stop := by
  induction ds with
  | nil => exact fun h => h
  | cons d ds ih =>
    rintro off stop ⟨hmore, hopens, hrest⟩
    obtain ⟨hlcid, hf, hsoff, hfits, hsizes⟩ := opens_iff_sizes.mp hopens
    exact ⟨hmore, opens_iff_sizes.mpr ⟨hfg off hmore ▸ hlcid, hfg off hmore ▸ hf, hsoff, hfits,
      sizes_congr hfg hmore hfits hsizes⟩, ih hrest⟩

/-- Settles O25: a block that parses leads the loop to its end; one that does not is refused by some pass. -/
theorem unpackFindsTheSubPdus : Obligations.UnpackFindsTheSubPdus := by
  intro len s
  refine ⟨fun hmode => ?_, fun hrx hbeyond => ?_, fun hrx hcap hdefinite => ?_⟩
  · rw [exec_macUnpack, s.complete_require_of_not hmode]
  · rw [exec_macUnpack, require_of hrx, s.complete_require_of_not (Nat.not_le.mpr hbeyond)]
  have hread : ∀ a, a < len.toNat → (s.peek .tb a).getD 0 = s.read .tb a := by
    intro a ha
    obtain ⟨v, hv⟩ := Option.isSome_iff_exists.mp (hdefinite a ha)
    rw [hv]
    exact (State.readPass_of_peek hv).symm
  rw [exec_macUnpack_of_accepted hrx hcap]
  refine ⟨fun ds hroom hparses => ?_, fun hnone => ?_⟩
  · rw [State.parseResult_of_parsesUpTo len.isLt (parsesUpTo_congr hread hparses) (by simpa using hroom),
      State.parseResult_of_end (Nat.le_refl _), s.complete_ok]
    simp [State.commitParse]
  · obtain ⟨ds, hroom, hparses⟩ | ⟨e, he, hresult⟩ :=
      s.parseResult_cases ⟨0, len.toNat, []⟩ (Nat.zero_le _) len.isLt (Nat.zero_le _)
    · exact absurd ⟨ds, by simpa using hroom, parsesUpTo_congr (fun a ha => (hread a ha).symm) hparses⟩ hnone
    · exact ⟨e, he, by rw [hresult]; rfl⟩

/-! ### The first offence (R222, R324) -/

/-- A pass that fails behind sub-PDUs that parse gives `MAC.UNPACK` its code. -/
theorem exec_macUnpack_of_offence {len : Word} {s : State} {ds : List Desc} {off : Nat} {e : Code} (hrx : s.mac.mode = .rx)
    (hcap : len.toNat ≤ s.params.tbCap) (hroom : ds.length ≤ s.params.spCap)
    (hparses : ParsesUpTo s.mac.dir (s.read .tb) len.toNat 0 ds off) (hmore : off < len.toNat)
    (hpass : s.passAt ⟨off, len.toNat, ds⟩ = .error e) : exec (.macUnpack len) s = .next (refusedWith s e) := by
  rw [exec_macUnpack_of_accepted hrx hcap, State.parseResult_of_parsesUpTo len.isLt hparses (by simpa using hroom),
    List.nil_append, State.parseResult_of_error hmore hpass]
  rfl

/-- Settles O26: each offence is the way in which the pass at `off` fails. -/
theorem unpackNamesTheFirstOffence : Obligations.UnpackNamesTheFirstOffence := by
  intro len s ds off b k size nL payload hrx hcap hroom hparses hmore hb hk hsize hnL hpayload
  have offence {e : Code} := exec_macUnpack_of_offence (e := e) hrx hcap hroom hparses hmore
  have hlcid := s.subHeaderAt_lcid ⟨off, len.toNat, ds⟩
  simp only [← hb] at hlcid
  rw [← hlcid] at hk hsize
  subst hk hsize hpayload hnL
  refine ⟨fun hclass => offence (parseOne_of_error (subPduSize_of_reserved _ _ hclass)), fun hclass hcut => ?_,
    fun hclass => offence (parseOne_of_error (subPduSize_of_unsupported _ _ hclass)), fun hclass hin hbeyond => ?_,
    fun hclass hbeyond => offence (parseOne_of_beyond (subPduSize_of_fixed _ _ hclass) hbeyond), ?_⟩
  · refine offence (parseOne_of_error ?_)
    rw [subPduSize_of_length _ _ hclass, State.subHeaderAt_len_of_cut (hb ▸ hcut)]
    rfl
  · have hlength : hasLength (s.read .tb off % 64) s.mac.dir = true := by
      rw [← s.subHeaderAt_lcid ⟨off, len.toNat, ds⟩, hasLength_eq_table, decide_eq_true hclass]
    have hsize := subPduSize_of_length off len.toNat hclass
    rw [State.subHeaderAt_len_of_inside hlength (hb ▸ hin), State.subHeaderAt_f] at hsize
    refine offence (parseOne_of_beyond hsize ?_)
    subst hb
    by_cases hlong : s.read .tb off / 64 % 2 = 1
    · simp only [if_pos hlong, decide_eq_true hlong, if_true] at hbeyond ⊢
      omega
    · simp only [if_neg hlong, decide_eq_false hlong, Bool.false_eq_true, if_false] at hbeyond ⊢
      omega
  · rintro ⟨d, hopens⟩ hfull
    obtain ⟨hlen, slen, hsize, hfits, -⟩ := (opens_iff (c := ⟨off, len.toNat, ds⟩) len.isLt).mp hopens
    exact offence (parseOne_of_full hsize hfits hfull)

end Sys2Proof.Machine
end

section
/-! The two commands that read the descriptor table (43_mac_parse.md R228, R230): the fields of an entry, and the decode of a Long
BSR, group by group. -/

namespace Sys2Proof.Machine

open Safety

/-! ### The mode and the index, which both commands test first -/

theorem Mode.hasTable_iff {m : Mode} : m.hasTable = true ↔ m = .tx ∨ m = .rxDone := by
  cases m <;> decide

theorem Mode.not_hasTable {m : Mode} (h : m = .idle ∨ m = .rx) : ¬m.hasTable = true :=
  mt Mode.hasTable_iff.mp (Mode.idle_or_rx_iff.mp h)

/-! ### `MAC.GET_SUBPDU` (R228) -/

section

variable {index : Word} {s : State} {e : Desc}

theorem exec_macGetSubpdu_of_no_table (hmode : s.mac.mode = .idle ∨ s.mac.mode = .rx) :
    exec (.macGetSubpdu index) s = .next (refusedWith s .badState) := by
  simp only [exec, execMacGetSubpdu, s.complete_require_of_not (Mode.not_hasTable hmode)]

theorem exec_macGetSubpdu_of_no_entry (hmode : s.mac.mode = .tx ∨ s.mac.mode = .rxDone)
    (hindex : s.mac.sp.length ≤ index.toNat) : exec (.macGetSubpdu index) s = .next (refusedWith s .badIndex) := by
  simp only [exec, execMacGetSubpdu, require_of (Mode.hasTable_iff.mpr hmode), List.getElem?_eq_none hindex]
  rfl

theorem exec_macGetSubpdu_of_entry (hmode : s.mac.mode = .tx ∨ s.mac.mode = .rxDone)
    (hentry : s.mac.sp[index.toNat]? = some e) : exec (.macGetSubpdu index) s = .next (completedAs s { s with
      r := ⟨word e.summary, e.slen, e.soff, word (e.hlen.toNat + e.slen.toNat)⟩ }) := by
  simp only [exec, execMacGetSubpdu, require_of (Mode.hasTable_iff.mpr hmode), hentry, s.complete_ok]

end

/-- A field of a register that was written as a number. -/
theorem extractLsb'_word_eq {v start w : Nat} {x : BitVec w} (hv : v < 2 ^ 32) (hx : v / 2 ^ start % 2 ^ w = x.toNat) :
    (word v).extractLsb' start w = x := by
  apply BitVec.eq_of_toNat_eq
  rw [BitVec.extractLsb'_toNat, toNat_word_of_lt hv, Nat.shiftRight_eq_div_pow, hx]

theorem Desc.summary_eq (e : Desc) : e.summary = e.lcid.toNat + 256 * e.f.toNat + 65536 * e.hlen.toNat := rfl

/-- Settles O30: `r[0]` holds the three fields of the entry with zeros between them. -/
theorem getSubpduReturnsTheEntry : Obligations.GetSubpduReturnsTheEntry := by
  intro index s
  refine ⟨decode_of_encode (i := .macGetSubpdu index) rfl, exec_macGetSubpdu_of_no_table, fun hmode =>
    ⟨exec_macGetSubpdu_of_no_entry hmode, fun e hentry => ⟨_, exec_macGetSubpdu_of_entry hmode hentry, ?_⟩⟩⟩
  have hlcid : e.lcid.toNat < 64 := e.lcid.isLt
  have hf : e.f.toNat < 2 := e.f.toNat_lt
  have hhlen : e.hlen.toNat < 4 := e.hlen.isLt
  have hsummary := e.summary_eq
  have hsmall : e.summary < 2 ^ 32 := by omega
  refine ⟨extractLsb'_word_eq hsmall (by omega), extractLsb'_word_eq hsmall ?_, ?_, extractLsb'_word_eq hsmall ?_,
    extractLsb'_word_eq hsmall (by omega), extractLsb'_word_eq hsmall ?_⟩
  · show _ = 0
    omega
  · rw [BitVec.getLsbD_ofNat, Nat.testBit_eq_decide_div_mod_eq, show e.summary / 2 ^ 8 % 2 = e.f.toNat by omega]
    cases e.f <;> rfl
  · show _ = 0
    omega
  · show _ = 0
    omega

/-! ### The decode of a Long BSR (R230) -/

theorem groupsBelow_succ (bm i : Nat) :
    groupsBelow bm (i + 1) = groupsBelow bm i + if bm.testBit i then 1 else 0 := by
  simp only [groupsBelow, List.range_succ, List.filter_append, List.length_append]
  cases h : bm.testBit i <;> simp [h]

theorem groupsBelow_mono (bm : Nat) : Monotone (groupsBelow bm) :=
  monotone_nat_of_le_succ fun i => groupsBelow_succ bm i ▸ Nat.le_add_right _ _

theorem groupsBelow_le (bm i : Nat) : groupsBelow bm i ≤ i :=
  (List.length_filter_le _ _).trans_eq List.length_range

/-- The buffer size of group `i`, by the values in the payload: 0 where the bitmap does not flag the group, 63 where its value is
missing. -/
def groupSize (bm : Nat) (vals : List Nat) (i : Nat) : Nat :=
  if bm.testBit i then vals.getD (groupsBelow bm i) Config.lbsrTruncDefault else 0

/-- The bitmap flags group `i`, and its value is missing. -/
def isDefaulted (bm : Nat) (vals : List Nat) (i : Nat) : Bool :=
  bm.testBit i && decide (vals.length ≤ groupsBelow bm i)

/-- What the loop of R230 has gathered before group `i`. -/
structure LongBsr.Gathered (bm : Nat) (vals : List Nat) (i : Nat) (d : LongBsr) : Prop where
  cnt : d.cnt = min (groupsBelow bm i) vals.length
  dm_lt : d.dm < 2 ^ i
  dm : ∀ j, j < i → d.dm.testBit j = isDefaulted bm vals j
  bs : d.bs = (List.range i).map (groupSize bm vals)

/-- The mask with the bit of group `i` set where the group is defaulted. -/
theorem testBit_defaultMask (dm : Nat) (b : Bool) (i j : Nat) :
    (if b then dm ||| 1 <<< i else dm).testBit j = (dm.testBit j || (b && decide (i = j))) := by
  cases b <;> simp [Nat.one_shiftLeft, Nat.testBit_two_pow]

theorem defaultMask_lt {dm i : Nat} (b : Bool) (h : dm < 2 ^ i) : (if b then dm ||| 1 <<< i else dm) < 2 ^ (i + 1) := by
  have hup : 2 ^ i < 2 ^ (i + 1) := Nat.pow_lt_pow_succ Nat.one_lt_two
  split
  · exact Nat.or_lt_two_pow (h.trans hup) (by rwa [Nat.one_shiftLeft])
  · exact h.trans hup

section

variable {bm : Nat} {vals : List Nat} {trunc : Bool} {left i : Nat} {d : LongBsr}

theorem LongBsr.Gathered.start : Gathered bm vals 0 ⟨0, 0, []⟩ where
  cnt := (Nat.zero_min _).symm
  dm_lt := Nat.one_pos
  dm := nofun
  bs := rfl

/-- One group more: the number of values read, the mask and the buffer size that it adds. -/
theorem LongBsr.Gathered.next (h : Gathered bm vals i d) {cnt dm v : Nat}
    (hcnt : cnt = min (groupsBelow bm (i + 1)) vals.length)
    (hdm : dm = if isDefaulted bm vals i then d.dm ||| 1 <<< i else d.dm) (hv : v = groupSize bm vals i) :
    Gathered bm vals (i + 1) ⟨cnt, dm, d.bs ++ [v]⟩ where
  cnt := hcnt
  dm_lt := hdm ▸ defaultMask_lt _ h.dm_lt
  dm j hj := by
    rw [hdm, testBit_defaultMask]
    obtain hj | rfl := Nat.lt_succ_iff_lt_or_eq.mp hj
    · rw [h.dm j hj, decide_eq_false hj.ne', Bool.and_false, Bool.or_false]
    · rw [Nat.testBit_lt_two_pow h.dm_lt, decide_eq_true rfl, Bool.and_true, Bool.false_or]
  bs := by rw [h.bs, hv, List.range_succ, List.map_append, List.map_singleton]

/-- A group that the bitmap does not flag. -/
theorem LongBsr.Gathered.absent (h : Gathered bm vals i d) (hbit : bm.testBit i = false) :
    Gathered bm vals (i + 1) ⟨d.cnt, d.dm, d.bs ++ [0]⟩ :=
  h.next (by simp [h.cnt, groupsBelow_succ, hbit]) (by simp [isDefaulted, hbit]) (by simp [groupSize, hbit])

/-- A flagged group whose value is present. -/
theorem LongBsr.Gathered.present (h : Gathered bm vals i d) (hbit : bm.testBit i = true) {v : Nat}
    (hv : vals[d.cnt]? = some v) : Gathered bm vals (i + 1) ⟨d.cnt + 1, d.dm, d.bs ++ [v]⟩ := by
  obtain ⟨hin, -⟩ := List.getElem?_eq_some_iff.mp hv
  have hcnt := h.cnt
  have hhere : d.cnt = groupsBelow bm i := by omega
  refine h.next ?_ ?_ ?_
  · rw [groupsBelow_succ, if_pos hbit]
    omega
  · rw [isDefaulted, decide_eq_false (by omega), Bool.and_false]
    rfl
  · rw [groupSize, if_pos hbit, List.getD_eq_getElem?_getD, ← hhere, hv]
    rfl

/-- A flagged group whose value is missing. -/
theorem LongBsr.Gathered.missing (h : Gathered bm vals i d) (hbit : bm.testBit i = true)
    (hnone : vals[d.cnt]? = none) :
    Gathered bm vals (i + 1) ⟨d.cnt, d.dm ||| 1 <<< i, d.bs ++ [Config.lbsrTruncDefault]⟩ := by
  have hcnt := h.cnt
  have hend : vals.length ≤ d.cnt := List.getElem?_eq_none_iff.mp hnone
  have hhere : vals.length ≤ groupsBelow bm i := by omega
  refine h.next ?_ ?_ ?_
  · rw [groupsBelow_succ, if_pos hbit]
    omega
  · rw [isDefaulted, hbit, decide_eq_true hhere]
    rfl
  · rw [groupSize, if_pos hbit, List.getD_eq_getElem?_getD, List.getElem?_eq_none hhere]
    rfl

/-- The decode goes through where every flagged group has its value, or the LCID allows values to be missing. -/
theorem lbsrLoop_ok (h : d.Gathered bm vals i) (hvals : trunc = true ∨ groupsBelow bm (i + left) ≤ vals.length) :
    ∃ d', lbsrLoop bm vals trunc left i d = .ok d' ∧ d'.Gathered bm vals (i + left) := by
  induction left generalizing i d with
  | zero => exact ⟨d, rfl, h⟩
  | succ left ih =>
    rw [show i + (left + 1) = i + 1 + left by omega] at hvals ⊢
    cases hbit : bm.testBit i with
    | false =>
      simp only [lbsrLoop, hbit]
      exact ih (h.absent hbit) hvals
    | true =>
      cases hv : vals[d.cnt]? with
      | some v =>
        simp only [lbsrLoop, hbit, hv]
        exact ih (h.present hbit hv) hvals
      | none =>
        have hcnt := h.cnt
        have hend : vals.length ≤ d.cnt := List.getElem?_eq_none_iff.mp hv
        have htrunc : trunc = true := hvals.resolve_right fun hle => by
          have hsucc := groupsBelow_succ bm i
          have hmono := groupsBelow_mono bm (Nat.le_add_right (i + 1) left)
          rw [if_pos hbit] at hsucc
          omega
        simp only [lbsrLoop, hbit, hv, htrunc]
        exact htrunc ▸ ih (h.missing hbit hv) hvals

/-- The decode fails at the first flagged group without a value, where the LCID does not allow it. -/
theorem lbsrLoop_error (hcnt : d.cnt = groupsBelow bm i) (hhave : groupsBelow bm i ≤ vals.length)
    (hlack : vals.length < groupsBelow bm (i + left)) :
    lbsrLoop bm vals false left i d = .error .malformedPdu := by
  induction left generalizing i d with
  | zero => exact absurd hhave (Nat.not_le.mpr hlack)
  | succ left ih =>
    rw [show i + (left + 1) = i + 1 + left by omega] at hlack
    have hsucc := groupsBelow_succ bm i
    cases hbit : bm.testBit i with
    | false =>
      simp only [hbit, Bool.false_eq_true, if_false] at hsucc
      have hnext : d.cnt = groupsBelow bm (i + 1) := by omega
      simp only [lbsrLoop, hbit]
      exact ih hnext (by omega) hlack
    | true =>
      simp only [hbit, if_true] at hsucc
      cases hv : vals[d.cnt]? with
      | some v =>
        obtain ⟨hin, -⟩ := List.getElem?_eq_some_iff.mp hv
        have hnext : d.cnt + 1 = groupsBelow bm (i + 1) := by omega
        simp only [lbsrLoop, hbit, hv]
        exact ih hnext (by omega) hlack
      | none => simp [lbsrLoop, hbit, hv]

end

/-! ### The bytes of a register -/

theorem packBytes_lt {vs : List Nat} (h : ∀ v ∈ vs, v < 256) : packBytes vs < 256 ^ vs.length := by
  induction vs with
  | nil => exact Nat.one_pos
  | cons v vs ih =>
    have hv := h v List.mem_cons_self
    have hvs := ih fun u hu => h u (List.mem_cons_of_mem _ hu)
    rw [packBytes, List.length_cons, Nat.pow_succ]
    omega

theorem packBytes_byte {vs : List Nat} (h : ∀ v ∈ vs, v < 256) {k v : Nat} (hv : vs[k]? = some v) :
    packBytes vs / 256 ^ k % 256 = v := by
  induction vs generalizing k with
  | nil => cases hv
  | cons u vs ih =>
    have hu := h u List.mem_cons_self
    cases k with
    | zero =>
      obtain rfl := Option.some.inj hv
      rw [packBytes, Nat.pow_zero]
      omega
    | succ k =>
      rw [packBytes, Nat.pow_succ', ← Nat.div_div_eq_div_mul, show (u + 256 * packBytes vs) / 256 = packBytes vs by omega]
      exact ih (fun w hw => h w (List.mem_cons_of_mem _ hw)) hv

/-- Byte `i` of eight, packed in two registers. -/
theorem packBytes_two {bs : List Nat} (h : ∀ v ∈ bs, v < 256) (hlen : bs.length = 8) {i v : Nat} (hi : i < 8)
    (hv : bs[i]? = some v) : (if i < 4 then word (packBytes (bs.take 4)) else word (packBytes (bs.drop 4))).toNat
      / 256 ^ (i % 4) % 256 = v := by
  have htake : ∀ u ∈ bs.take 4, u < 256 := fun u hu => h u (List.mem_of_mem_take hu)
  have hdrop : ∀ u ∈ bs.drop 4, u < 256 := fun u hu => h u (List.mem_of_mem_drop hu)
  have hlow := packBytes_lt htake
  have hhigh := packBytes_lt hdrop
  rw [List.length_take, hlen] at hlow
  rw [List.length_drop, hlen] at hhigh
  split
  · next hi4 =>
    rw [toNat_word_of_lt hlow, show i % 4 = i by omega]
    exact packBytes_byte htake (by rwa [List.getElem?_take_of_lt hi4])
  · next hi4 =>
    rw [toNat_word_of_lt hhigh, show i % 4 = i - 4 by omega]
    exact packBytes_byte hdrop (by rwa [List.getElem?_drop, show 4 + (i - 4) = i by omega])

/-! ### `MAC.GET_LBSR` (R230) -/

section

variable {index : Word} {s : State} {e : Desc}

/-- The results of a decode. -/
def State.putLbsr (s : State) (bm : Nat) (d : LongBsr) : State := { s with r := { s.r with
  r0 := word (bm + 256 * d.cnt + 65536 * d.dm)
  r1 := word (packBytes (d.bs.take 4))
  r2 := word (packBytes (d.bs.drop 4)) } }

/-- How the rule ends behind its preconditions: with the results of the decode from group 0 on, or with its code. -/
def State.lbsrResult (s : State) (e : Desc) : Result :=
  match lbsrLoop (s.read .tb e.soff.toNat) (s.lbsrValues e) (e.lcid = 60) 8 0 ⟨0, 0, []⟩ with
  | .error c => .raise c
  | .ok d => .ok (s.putLbsr (s.read .tb e.soff.toNat) d)

theorem exec_macGetLbsr_of_no_table (hmode : s.mac.mode = .idle ∨ s.mac.mode = .rx) :
    exec (.macGetLbsr index) s = .next (refusedWith s .badState) := by
  simp only [exec, execMacGetLbsr, s.complete_require_of_not (Mode.not_hasTable hmode)]

theorem exec_macGetLbsr_of_no_entry (hmode : s.mac.mode = .tx ∨ s.mac.mode = .rxDone)
    (hindex : s.mac.sp.length ≤ index.toNat) : exec (.macGetLbsr index) s = .next (refusedWith s .badIndex) := by
  simp only [exec, execMacGetLbsr, require_of (Mode.hasTable_iff.mpr hmode), List.getElem?_eq_none hindex]
  rfl

theorem exec_macGetLbsr_of_entry (hmode : s.mac.mode = .tx ∨ s.mac.mode = .rxDone)
    (hentry : s.mac.sp[index.toNat]? = some e) : exec (.macGetLbsr index) s = .next (s.complete
      (require (s.mac.dir = .ul ∧ (e.lcid = 60 ∨ e.lcid = 62)) .badOperand
        (require (1 ≤ e.slen.toNat) .malformedPdu (s.lbsrResult e)))) := by
  simp only [exec, execMacGetLbsr, require_of (Mode.hasTable_iff.mpr hmode), hentry]
  rfl

theorem one_le_slen_iff : 1 ≤ e.slen.toNat ↔ e.slen ≠ 0 := by
  rw [Nat.one_le_iff_ne_zero]
  exact not_congr (BitVec.toNat_inj (x := e.slen) (y := 0))

theorem exec_macGetLbsr_of_accepted (hmode : s.mac.mode = .tx ∨ s.mac.mode = .rxDone)
    (hentry : s.mac.sp[index.toNat]? = some e) (hdir : s.mac.dir = .ul) (hlcid : e.lcid = 60 ∨ e.lcid = 62)
    (hslen : e.slen ≠ 0) : exec (.macGetLbsr index) s = .next (s.complete (s.lbsrResult e)) := by
  rw [exec_macGetLbsr_of_entry hmode hentry, require_of ⟨hdir, hlcid⟩, require_of (one_le_slen_iff.mpr hslen)]

theorem State.length_lbsrValues (s : State) (e : Desc) : (s.lbsrValues e).length = min (e.slen.toNat - 1) 8 := by
  rw [State.lbsrValues, List.length_map, List.length_range]

/-- Too few values for the flagged groups of a Long BSR that is not truncated. -/
theorem State.lbsrResult_of_lack (hlcid : e.lcid = 62) (hslen : e.slen ≠ 0)
    (hlack : e.slen.toNat ≤ groupsBelow (s.read .tb e.soff.toNat) 8) : s.lbsrResult e = .raise .malformedPdu := by
  have hpos := one_le_slen_iff.mpr hslen
  have hvals := s.length_lbsrValues e
  have hloop := lbsrLoop_error (bm := s.read .tb e.soff.toNat) (vals := s.lbsrValues e) (left := 8) (i := 0)
    (d := ⟨0, 0, []⟩) rfl (Nat.zero_le _) (by rw [Nat.zero_add]; omega)
  have htrunc : decide (e.lcid = 60) = false := by rw [hlcid]; rfl
  simp only [State.lbsrResult, htrunc, hloop]

/-- Enough values for the flagged groups, or a Long BSR that is truncated. -/
theorem State.lbsrResult_of_enough
    (henough : e.lcid = 60 ∨ groupsBelow (s.read .tb e.soff.toNat) 8 < e.slen.toNat) :
    ∃ d, s.lbsrResult e = .ok (s.putLbsr (s.read .tb e.soff.toNat) d)
      ∧ d.Gathered (s.read .tb e.soff.toNat) (s.lbsrValues e) 8 := by
  have hvals := s.length_lbsrValues e
  have hle := groupsBelow_le (s.read .tb e.soff.toNat) 8
  obtain ⟨d, hloop, hd⟩ := lbsrLoop_ok (trunc := decide (e.lcid = 60)) (left := 8)
    (.start : LongBsr.Gathered (s.read .tb e.soff.toNat) (s.lbsrValues e) 0 ⟨0, 0, []⟩)
    (henough.imp decide_eq_true fun _ => by rw [Nat.zero_add]; omega)
  exact ⟨d, by simp only [State.lbsrResult, hloop], hd⟩

/-- The buffer size of a group by the definite bytes of the payload. -/
theorem State.groupSize_lbsrValues {bm : Nat} {val : Nat → Nat}
    (hval : ∀ j, j < 8 → 1 + j < e.slen.toNat → s.peek .tb (e.soff.toNat + 1 + j) = some (val j)) {i : Nat} (hi : i < 8) :
    groupSize bm (s.lbsrValues e) i
      = if bm.testBit i then (if groupsBelow bm i < e.slen.toNat - 1 then val (groupsBelow bm i) else 63) else 0 := by
  have hle := groupsBelow_le bm i
  rw [groupSize, List.getD_eq_getElem?_getD, State.lbsrValues, List.getElem?_map]
  congr 1
  split
  · next hpresent =>
    rw [List.getElem?_range (by omega)]
    exact State.readPass_of_peek (hval _ (by omega) (by omega))
  · next hmissing =>
    rw [List.getElem?_eq_none (by rw [List.length_range]; omega)]
    rfl

theorem State.groupSize_lbsrValues_lt (s : State) (e : Desc) (bm i : Nat) : groupSize bm (s.lbsrValues e) i < 256 := by
  rw [groupSize, List.getD_eq_getElem?_getD, State.lbsrValues, List.getElem?_map]
  split
  · cases (List.range (min (e.slen.toNat - 1) 8))[groupsBelow bm i]? with
    | none => exact show 63 < 256 by decide
    | some j => exact s.readPass_lt 0 .tb _
  · decide

end

/-- Settles O31: the checks by the preconditions in their order; the decode by what the loop has gathered behind group 7. -/
theorem getLbsrDecodesTheGroups : Obligations.GetLbsrDecodesTheGroups := by
  constructor
  · intro index s
    refine ⟨exec_macGetLbsr_of_no_table, fun hmode => ⟨exec_macGetLbsr_of_no_entry hmode, fun e hentry =>
      ⟨fun hbad => ?_, fun hdir hlcid => ⟨fun hempty => ?_, fun bm hslen hbm hlong hlack => ?_⟩⟩⟩⟩
    · rw [exec_macGetLbsr_of_entry hmode hentry, s.complete_require_of_not hbad]
    · rw [exec_macGetLbsr_of_entry hmode hentry, require_of ⟨hdir, hlcid⟩,
        s.complete_require_of_not (mt one_le_slen_iff.mp (not_not.mpr hempty))]
    · have hread : s.read .tb e.soff.toNat = bm := State.readPass_of_peek hbm
      rw [exec_macGetLbsr_of_accepted hmode hentry hdir hlcid hslen, State.lbsrResult_of_lack hlong hslen (hread ▸ hlack)]
      rfl
  · intro index s e bm val hmode hentry hdir hlcid hslen hbm hval henough
    have hread : s.read .tb e.soff.toNat = bm := State.readPass_of_peek hbm
    obtain ⟨d, hresult, hd⟩ := State.lbsrResult_of_enough (hlcid.imp_right fun h => hread ▸ henough h)
    rw [hread] at hresult hd
    refine ⟨_, d.dm, by rw [exec_macGetLbsr_of_accepted hmode hentry hdir hlcid hslen, hresult, s.complete_ok], rfl, hd.dm_lt,
      ?_, fun i hi => ?_, fun i hi => ?_⟩
    · have hlt : bm < 256 := State.peek_lt hbm
      have hcnt := hd.cnt
      have hvals := s.length_lbsrValues e
      have hle := groupsBelow_le bm 8
      have hdm := hd.dm_lt
      show (word (bm + 256 * d.cnt + 65536 * d.dm)).toNat = _
      rw [toNat_word_of_lt (by omega)]
      omega
    · rw [hd.dm i hi, isDefaulted, s.length_lbsrValues]
      have hle := groupsBelow_le bm i
      congr 1
      rw [decide_eq_decide]
      omega
    · have hgroup : d.bs[i]? = some (groupSize bm (s.lbsrValues e) i) := by
        rw [hd.bs, List.getElem?_map, List.getElem?_range hi]
        rfl
      rw [← State.groupSize_lbsrValues hval hi]
      refine packBytes_two ?_ ?_ hi hgroup
      · rw [hd.bs]
        simp only [List.mem_map]
        rintro _ ⟨j, -, rfl⟩
        exact s.groupSize_lbsrValues_lt e bm j
      · rw [hd.bs, List.length_map, List.length_range]

end Sys2Proof.Machine
end

section
/-! The append procedure of the serializer (44_mac_pack.md R251), which every command that adds a sub-PDU ends in: the bytes it writes,
and its result as `Appended` states it. -/

namespace Sys2Proof.Machine

open Safety

/-! ### Headers that a reader of the block understands -/

/-- An LCID takes this header and this payload size on the wire: a length field that holds `slen` where the LCID carries one, else one
byte and, but for padding, the size that is fixed for the LCID (30_encoding.md R111, R112, 43_mac_parse.md R213, R214). -/
def PacksAs (dir : Dir) (lcid : BitVec 6) (f : Bool) (hlen slen : Nat) : Prop :=
  isValidLcid lcid.toNat dir = true
    ∧ (if hasLength lcid.toNat dir then
        if f then hlen = 3 ∧ slen < 2 ^ 16 else hlen = 2 ∧ slen < 2 ^ 8
      else hlen = 1 ∧ (lcid = 63 ∨ ceSize lcid.toNat dir = some slen))

section

variable {dir : Dir} {lcid : BitVec 6} {f : Bool} {hlen slen : Nat}

/-- The header has one to three bytes, and its length field holds the payload size. -/
theorem PacksAs.header (h : PacksAs dir lcid f hlen slen) :
    hlen = 1 ∨ (hlen = 2 ∧ slen < 2 ^ 8) ∨ (hlen = 3 ∧ slen < 2 ^ 16) := by
  obtain ⟨-, hsize⟩ := h
  split at hsize
  · split at hsize
    · exact .inr (.inr hsize)
    · exact .inr (.inl hsize)
  · exact .inl hsize.1

theorem packsAs_of_length (hvalid : isValidLcid lcid.toNat dir = true) (hlength : hasLength lcid.toNat dir = true)
    (hsize : if f then hlen = 3 ∧ slen < 2 ^ 16 else hlen = 2 ∧ slen < 2 ^ 8) : PacksAs dir lcid f hlen slen :=
  ⟨hvalid, by rwa [if_pos hlength]⟩

theorem packsAs_of_fixed (hvalid : isValidLcid lcid.toNat dir = true) (hlength : hasLength lcid.toNat dir = false)
    (hsize : ceSize lcid.toNat dir = some slen) : PacksAs dir lcid f 1 slen :=
  ⟨hvalid, by rw [hlength]; exact ⟨rfl, .inr hsize⟩⟩

/-- Padding takes a payload of any size (44_mac_pack.md R266). -/
theorem packsAs_padding (dir : Dir) (slen : Nat) : PacksAs dir 63 false 1 slen := by
  cases dir <;> exact ⟨rfl, rfl, .inl rfl⟩

/-! ### The bytes of a sub-PDU -/

theorem toNat_headerByte (f : Bool) (lcid : BitVec 6) : (headerByte false f lcid).toNat = 64 * f.toNat + lcid.toNat := by
  revert lcid
  cases f <;> decide

theorem toNat_byte_of_lt {v : Nat} (h : v < 2 ^ 8) : (byte v).toNat = v := by
  rw [BitVec.toNat_ofNat, Nat.mod_eq_of_lt h]

theorem PacksAs.length_headerBytes (h : PacksAs dir lcid f hlen slen) : (headerBytes lcid f hlen slen).length = hlen := by
  obtain rfl | ⟨rfl, -⟩ | ⟨rfl, -⟩ := h.header <;> rfl

/-- What an appended sub-PDU leaves in `TB`, said once: its header and payload from `woff` on, the old content elsewhere. -/
theorem State.peek_putSubPdu (s : State) (h : PacksAs dir lcid f hlen slen) {pay : List Byte} (hpay : pay.length = slen)
    (a : Nat) : (s.putSubPdu lcid f hlen slen pay).peek .tb a =
      if s.mac.woff.toNat ≤ a ∧ a < s.mac.woff.toNat + (hlen + slen) then
        ((headerBytes lcid f hlen slen ++ pay)[a - s.mac.woff.toNat]?).map BitVec.toNat
      else s.peek .tb a := by
  have hbytes : (headerBytes lcid f hlen slen ++ pay).length = hlen + slen := by
    rw [List.length_append, h.length_headerBytes, hpay]
  show ((s.putSubPdu lcid f hlen slen pay).mem.tb.get a).map BitVec.toNat = _
  rw [State.putSubPdu_tb, Bank.get_setFrom, hbytes]
  split <;> rfl

/-- The append procedure does what R251 says, whatever results the command then writes. -/
theorem appended_putSubPdu {s : State} {pay : List Byte} {value : Nat → Nat → Prop} (hs : MacInv s) (htx : s.mac.mode = .tx)
    (h : PacksAs dir lcid f hlen slen) (hfits : hlen + slen ≤ s.mac.remain.toNat) (hpay : pay.length = slen)
    (hvalue : ∀ i b, pay[i]? = some b → value i b.toNat) (r : Regs) :
    Appended s (completedAs s { s.putSubPdu lcid f hlen slen pay with r := r }) lcid f hlen slen value := by
  obtain ⟨hsum, -⟩ := hs.tx htx
  have htotal := s.mac.tbLen.isLt
  have hheader := h.header
  have hbytes := h.length_headerBytes
  have hpeek (a : Nat) : (completedAs s { s.putSubPdu lcid f hlen slen pay with r := r }).peek .tb a = _ :=
    s.peek_putSubPdu h hpay a
  constructor
  case others => rfl
  case header =>
    rw [hpeek, if_pos ⟨by omega, by omega⟩, Nat.sub_self]
    exact congrArg some (toNat_headerByte f lcid)
  case length2 =>
    rintro rfl
    rw [hpeek, if_pos ⟨by omega, by omega⟩, Nat.add_sub_cancel_left]
    exact congrArg some (toNat_byte_of_lt (by omega))
  case length3 =>
    rintro rfl
    rw [hpeek, hpeek, if_pos ⟨by omega, by omega⟩, if_pos ⟨by omega, by omega⟩, Nat.add_sub_cancel_left,
      Nat.add_sub_cancel_left]
    exact ⟨congrArg some (toNat_byte_of_lt (by omega)), congrArg some (BitVec.toNat_ofNat slen 8)⟩
  case payload =>
    intro i hi
    have hget : pay[i]? = some pay[i] := List.getElem?_eq_getElem (hpay ▸ hi)
    refine ⟨pay[i].toNat, ?_, hvalue i _ hget⟩
    rw [hpeek, if_pos ⟨by omega, by omega⟩, List.getElem?_append_right (by omega), hbytes,
      show s.mac.woff.toNat + hlen + i - s.mac.woff.toNat - hlen = i by omega, hget]
    rfl
  case rest =>
    intro a ha
    rw [hpeek, if_neg ha]
  case table =>
    obtain ⟨hlcid, hf, hh, hl, hsoff⟩ := (eq_mkDesc_iff (by omega) (by omega) (by omega)).mp
      (rfl : mkDesc lcid f hlen slen (s.mac.woff.toNat + hlen) = _)
    exact ⟨_, rfl, hlcid, hf, hh, hl, hsoff⟩
  case woff => exact toNat_word_of_lt (by omega)
  case remain => exact toNat_word_of_lt (by omega)
  case session => exact ⟨rfl, rfl, rfl⟩

end

/-- The padding sub-PDU fills the rest of the block with zeros (44_mac_pack.md R266). -/
theorem appended_putPadding {s : State} (hs : MacInv s) (htx : s.mac.mode = .tx) (hleft : 0 < s.mac.remain.toNat) (r : Regs) :
    Appended s (completedAs s { s.putPadding with r := r }) 63 false 1 (s.mac.remain.toNat - 1) (fun _ v => v = 0) := by
  refine appended_putSubPdu hs htx (packsAs_padding s.mac.dir _) (by omega) List.length_replicate (fun i b hb => ?_) r
  rw [List.eq_of_mem_replicate (List.mem_of_getElem? hb)]
  rfl

/-! ### How `append` completes -/

theorem State.complete_append_of_full {s : State} (lcid : BitVec 6) (f : Bool) (hlen slen : Nat) (pay : List Byte)
    (hfull : s.mac.sp.length = s.params.spCap) : s.complete (s.append lcid f hlen slen pay) = refusedWith s .tableFull :=
  s.complete_require_of_not (not_not.mpr hfull)

theorem State.complete_append_of_no_space {s : State} (lcid : BitVec 6) (f : Bool) {hlen slen : Nat} (pay : List Byte)
    (hfree : s.mac.sp.length ≠ s.params.spCap) (hlack : s.mac.remain.toNat < hlen + slen) :
    s.complete (s.append lcid f hlen slen pay) = refusedWith s .noSpace := by
  rw [State.append, require_of hfree, s.complete_require_of_not (Nat.not_le.mpr hlack)]

/-- The completion of `append` with its three results: `r[2]` is the new `remain` (R251). -/
theorem State.complete_append_of_fits {s : State} (lcid : BitVec 6) (f : Bool) {hlen slen : Nat} (pay : List Byte)
    (hfree : s.mac.sp.length ≠ s.params.spCap) (hfits : hlen + slen ≤ s.mac.remain.toNat) :
    s.complete (s.append lcid f hlen slen pay) = completedAs s { s.putSubPdu lcid f hlen slen pay with
      r := { s.r with
        r0 := word (hlen + slen)
        r1 := word slen
        r2 := (s.putSubPdu lcid f hlen slen pay).mac.remain } } := by
  rw [State.append, require_of hfree, require_of hfits, s.complete_ok, State.putSubPdu_mac_remain]

/-- A command that ends in `append` and has room appends its sub-PDU and writes the three results. -/
theorem State.exists_appended {s : State} {lcid : BitVec 6} {f : Bool} {hlen slen : Nat} {pay : List Byte}
    {value : Nat → Nat → Prop} (hs : MacInv s) (htx : s.mac.mode = .tx) (hpacks : PacksAs s.mac.dir lcid f hlen slen)
    (hfree : s.mac.sp.length ≠ s.params.spCap) (hfits : hlen + slen ≤ s.mac.remain.toNat) (hpay : pay.length = slen)
    (hvalue : ∀ i b, pay[i]? = some b → value i b.toNat) :
    ∃ t, s.complete (s.append lcid f hlen slen pay) = t ∧ Appended s t lcid f hlen slen value
      ∧ t.r = { s.r with r0 := word (hlen + slen), r1 := word slen, r2 := t.mac.remain } :=
  ⟨_, State.complete_append_of_fits lcid f pay hfree hfits, appended_putSubPdu hs htx hpacks hfits hpay hvalue _, rfl⟩

end Sys2Proof.Machine
end

section
/-! What the commands of the serializer append (44_mac_pack.md R252 to R266). -/

namespace Sys2Proof.Machine

open Safety

/-! ### `MAC.ADD_SDU` (R252): its operands by the tables of R211 -/

section

variable {dir : Dir} {lcid : BitVec 6}

theorem sduClass_iff : lcidClass lcid.toNat dir = .sdu ∨ lcidClass lcid.toNat dir = .ulCcch
    ↔ (lcidTable dir lcid.toNat).1 = 1 ∨ (lcidTable dir lcid.toNat).1 = 2 := by
  revert lcid
  cases dir <;> decide

theorem isUlCcch_eq_table (dir : Dir) (lcid : BitVec 6) :
    isUlCcch lcid.toNat dir = decide ((lcidTable dir lcid.toNat).1 = 2) := by
  revert lcid
  cases dir <;> decide

theorem sduLen_eq_table (dir : Dir) (lcid : BitVec 6) (len : BitVec 16) : sduLen lcid dir len =
    if (lcidTable dir lcid.toNat).1 = 2 then (lcidTable dir lcid.toNat).2 else len.toNat := by
  by_cases hccch : (lcidTable dir lcid.toNat).1 = 2 <;> simp [sduLen, isUlCcch_eq_table, ceSize_eq_table, hccch]

theorem sduF_eq_table (hsdu : (lcidTable dir lcid.toNat).1 = 1 ∨ (lcidTable dir lcid.toNat).1 = 2) (len : BitVec 16) :
    sduF lcid dir len = ((lcidTable dir lcid.toNat).1 = 1 && 256 ≤ len.toNat) := by
  obtain hclass | hclass := hsdu <;> simp [sduF, isUlCcch_eq_table, hclass]

theorem sduHlen_eq_table (dir : Dir) (lcid : BitVec 6) (len : BitVec 16) : sduHlen lcid dir len =
    if (lcidTable dir lcid.toNat).1 = 2 then 1 else if sduF lcid dir len then 3 else 2 := by
  simp [sduHlen, isUlCcch_eq_table]

/-- The header that `MAC.ADD_SDU` writes is the one of the LCID, and its length field holds every length operand. -/
theorem packsAs_sdu (hsdu : (lcidTable dir lcid.toNat).1 = 1 ∨ (lcidTable dir lcid.toNat).1 = 2) (len : BitVec 16) :
    PacksAs dir lcid (sduF lcid dir len) (sduHlen lcid dir len) (sduLen lcid dir len) := by
  rw [sduHlen_eq_table, sduLen_eq_table]
  obtain hclass | hclass := hsdu
  · refine packsAs_of_length (by simp [isValidLcid_eq_table, hclass]) (by simp [hasLength_eq_table, hclass]) ?_
    have hlen := len.isLt
    rw [sduF_eq_table (.inl hclass)]
    by_cases hlong : 256 ≤ len.toNat
    · simp [hclass, hlong, hlen]
    · simp [hclass, hlong, Nat.lt_of_not_le hlong]
  · rw [if_pos hclass, if_pos hclass]
    exact packsAs_of_fixed (by simp [isValidLcid_eq_table, hclass]) (by simp [hasLength_eq_table, hclass])
      (by simp [ceSize_eq_table, hclass])

theorem ne_padding_of_sdu (hsdu : (lcidTable dir lcid.toNat).1 = 1 ∨ (lcidTable dir lcid.toNat).1 = 2) : lcid ≠ 63 := by
  rintro rfl
  have hpadding := (eq_padding_iff_table dir 63).mp rfl
  omega

end

/-! ### `MAC.ADD_SDU`: the payload and the checks -/

theorem State.length_payload (s : State) (addr n : Nat) : (s.payload addr n).length = n := by
  rw [State.payload, List.length_map, List.length_range]

theorem eq_of_getElem?_map_range {α : Type} {g : Nat → α} {n i : Nat} {x : α} (h : ((List.range n).map g)[i]? = some x) :
    x = g i := by
  obtain ⟨-, rfl⟩ := List.getElem?_eq_some_iff.mp h
  rw [List.getElem_map, List.getElem_range]

/-- Each payload byte is one that a read of `PL` may give (20_memory.md R73). -/
theorem State.mayRead_of_payload {s : State} {addr n i : Nat} {b : Byte} (h : (s.payload addr n)[i]? = some b) :
    MayRead s .pl (addr + i) b.toNat := by
  have hread : s.read .pl (addr + i) < 2 ^ 8 := s.readPass_lt 0 .pl _
  rw [eq_of_getElem?_map_range h, toNat_byte_of_lt hread]
  exact ⟨hread, fun x hx => State.readPass_of_peek hx⟩

theorem exec_macAddSdu (lcid : BitVec 6) (len : BitVec 16) (addr : Word) (s : State) :
    exec (.macAddSdu lcid len addr) s = .next (s.complete (require (s.mac.mode = .tx) .badState
      (require (lcidClass lcid.toNat s.mac.dir = .sdu ∨ lcidClass lcid.toNat s.mac.dir = .ulCcch) .badOperand
        (require (addr.toNat + sduLen lcid s.mac.dir len ≤ s.params.plCap) .badOperand
          (s.append lcid (sduF lcid s.mac.dir len) (sduHlen lcid s.mac.dir len) (sduLen lcid s.mac.dir len)
            (s.payload addr.toNat (sduLen lcid s.mac.dir len))))))) := rfl

/-- Settles O21: the checks by the preconditions in their order; behind them the append procedure with the header of the LCID. -/
theorem addSduAppendsTheSdu : Obligations.AddSduAppendsTheSdu := by
  intro lcid len addr s k slen hlen f hk hslen hf hhlen
  subst hk
  rw [exec_macAddSdu]
  refine ⟨fun hmode => by rw [s.complete_require_of_not hmode], fun htx => ?_⟩
  rw [require_of htx]
  refine ⟨fun hno => by rw [s.complete_require_of_not (mt sduClass_iff.mp hno)], fun hsdu => ?_⟩
  obtain rfl : slen = sduLen lcid s.mac.dir len := hslen.trans (sduLen_eq_table s.mac.dir lcid len).symm
  obtain rfl : f = sduF lcid s.mac.dir len := hf.trans (sduF_eq_table hsdu len).symm
  obtain rfl : hlen = sduHlen lcid s.mac.dir len := hhlen.trans (sduHlen_eq_table s.mac.dir lcid len).symm
  rw [require_of (sduClass_iff.mpr hsdu)]
  refine ⟨fun hbeyond => by rw [s.complete_require_of_not (Nat.not_le.mpr hbeyond)], fun hin => ?_⟩
  rw [require_of hin]
  refine ⟨fun hfull => congrArg _ (State.complete_append_of_full _ _ _ _ _ hfull), fun hfree =>
    ⟨fun hlack => congrArg _ (State.complete_append_of_no_space _ _ _ hfree hlack), fun hfits hs => ?_⟩⟩
  obtain ⟨t, ht, happended⟩ := State.exists_appended hs htx (packsAs_sdu hsdu len) hfree hfits (s.length_payload _ _)
    fun _ _ hb => State.mayRead_of_payload hb
  exact ⟨t, congrArg _ ht, happended⟩

/-! ### The control elements (R256, R258, R260, R262) -/

theorem State.appendCe_of_session {s : State} {dir : Dir} (htx : s.mac.mode = .tx) (hdir : s.mac.dir = dir)
    (lcid : BitVec 6) (pay : List Byte) : s.appendCe dir lcid pay = s.append lcid false 1 pay.length pay := by
  rw [State.appendCe, require_of htx, require_of hdir]

/-- A control element that finds its session, a free entry and room is appended with a one-byte header. -/
theorem State.exists_appended_ce {s : State} {dir : Dir} {lcid : BitVec 6} {pay : List Byte} {value : Nat → Nat → Prop}
    (hs : MacInv s) (htx : s.mac.mode = .tx) (hfree : s.mac.sp.length ≠ s.params.spCap) (hdir : s.mac.dir = dir)
    (hpacks : PacksAs dir lcid false 1 pay.length) (hfits : 1 + pay.length ≤ s.mac.remain.toNat)
    (hvalue : ∀ i b, pay[i]? = some b → value i b.toNat) :
    ∃ t, Host.Outcome.next (s.complete (s.appendCe dir lcid pay)) = (.next t : Host.Outcome State Fault Refusal)
      ∧ Appended s t lcid false 1 pay.length value
      ∧ t.r = { s.r with r0 := word (1 + pay.length), r1 := word pay.length, r2 := t.mac.remain } := by
  obtain ⟨t, ht, happended⟩ := State.exists_appended hs htx (hdir ▸ hpacks) hfree hfits rfl hvalue
  exact ⟨t, by rw [State.appendCe_of_session htx hdir, ht], happended⟩

/-- A payload whose bytes are the numbers of a list. -/
theorem getElem?_of_map_toNat {pay : List Byte} {vs : List Nat} (h : pay.map BitVec.toNat = vs) (i : Nat) (b : Byte)
    (hb : pay[i]? = some b) : vs[i]? = some b.toNat := by
  rw [← h, List.getElem?_map, hb]
  rfl

theorem toNat_zero_append {v w : Nat} (x : BitVec w) : (0#v ++ x).toNat = x.toNat := by
  simp [BitVec.toNat_append]

/-- Byte `i` of the contention resolution identity, the most significant first (R262). -/
theorem toNat_conResByte {id : BitVec 48} {i : Nat} {b : Byte}
    (hb : ((List.range 6).map fun i => id.extractLsb' (8 * (5 - i)) 8)[i]? = some b) :
    b.toNat = id.toNat / 2 ^ (8 * (5 - i)) % 256 := by
  rw [eq_of_getElem?_map_range hb, BitVec.extractLsb'_toNat, Nat.shiftRight_eq_div_pow]

/-- Settles O22: each payload layout by its bytes. -/
theorem addControlElementAppendsItsPayload : Obligations.AddControlElementAppendsItsPayload := by
  intro s hs htx hfree
  have appends {dir : Dir} {lcid : BitVec 6} {pay : List Byte} {value : Nat → Nat → Prop} :=
    State.exists_appended_ce (dir := dir) (lcid := lcid) (pay := pay) (value := value) hs htx hfree
  refine ⟨fun hul hfits => ⟨fun rnti => ?_, fun phr pcmax => ?_⟩, fun hul hfits lcg bs => ?_, fun hdl hfits id => ?_⟩
  · refine appends hul (packsAs_of_fixed rfl rfl rfl) hfits (getElem?_of_map_toNat ?_)
    have hlt := rnti.isLt
    simp only [List.map_cons, List.map_nil, BitVec.extractLsb'_toNat, Nat.shiftRight_eq_div_pow, List.cons.injEq, and_true]
    omega
  · refine appends hul (packsAs_of_fixed rfl rfl rfl) hfits (getElem?_of_map_toNat ?_)
    exact congrArg₂ (fun v w => [v, w]) (toNat_zero_append phr) (toNat_zero_append pcmax)
  · refine appends hul (packsAs_of_fixed rfl rfl rfl) hfits fun i b hb => ?_
    obtain rfl := List.mem_singleton.mp (List.mem_of_getElem? hb)
    have hlt := bs.isLt
    rw [BitVec.toNat_append, ← Nat.shiftLeft_add_eq_or_of_lt hlt, Nat.shiftLeft_eq]
    omega
  · exact appends hdl (packsAs_of_fixed rfl rfl rfl) hfits fun _ _ hb => toNat_conResByte hb

/-- Settles O23: all four commands are `appendCe`, whose preconditions stand in this order. -/
theorem addControlElementRefusals : Obligations.AddControlElementRefusals := by
  intro i s dir size hi
  obtain ⟨lcid, pay, hexec, rfl⟩ : ∃ lcid pay, exec i s = .next (s.complete (s.appendCe dir lcid pay))
      ∧ size = 1 + pay.length := by
    obtain ⟨rfl, rfl, rnti, rfl⟩ | ⟨rfl, rfl, phr, pcmax, rfl⟩ | ⟨rfl, rfl, lcg, bs, rfl⟩ | ⟨rfl, rfl, id, rfl⟩ := hi
    · exact ⟨_, _, rfl, rfl⟩
    · exact ⟨_, _, rfl, rfl⟩
    · exact ⟨_, _, rfl, rfl⟩
    · exact ⟨_, _, rfl, rfl⟩
  rw [hexec]
  refine ⟨fun hmode => ?_, fun htx hdir => ?_, fun htx hdir hfull => ?_, fun htx hdir hfree hlack => ?_⟩
  · rw [State.appendCe, s.complete_require_of_not hmode]
  · rw [State.appendCe, require_of htx, s.complete_require_of_not hdir]
  · rw [State.appendCe_of_session htx hdir, State.complete_append_of_full _ _ _ _ _ hfull]
  · rw [State.appendCe_of_session htx hdir, State.complete_append_of_no_space _ _ _ hfree hlack]

/-! ### `MAC.PACK` (R266) -/

theorem exec_macPack (s : State) : exec .macPack s = .next (s.complete (require (s.mac.mode = .tx) .badState
    (require (0 < s.mac.remain.toNat → s.mac.sp.length ≠ s.params.spCap) .tableFull
      (.ok { s.finishBlock with r := { s.r with r0 := s.finishBlock.mac.woff, r1 := s.mac.remain } })))) := rfl

theorem State.finishBlock_of_done {s : State} (hdone : s.mac.remain = 0) : s.finishBlock = s :=
  if_neg (by simp [hdone])

theorem State.finishBlock_of_left {s : State} (hleft : 0 < s.mac.remain.toNat) : s.finishBlock = s.putPadding :=
  if_pos hleft

/-- Settles O24: with nothing left the block stays; else the padding sub-PDU takes all that is left. -/
theorem packFillsTheRemainingSpace : Obligations.PackFillsTheRemainingSpace := by
  intro s
  rw [exec_macPack]
  refine ⟨fun hmode => by rw [s.complete_require_of_not hmode], fun htx => ?_⟩
  rw [require_of htx]
  have hpos (hne : s.mac.remain ≠ 0) : 0 < s.mac.remain.toNat :=
    Nat.pos_of_ne_zero fun hzero => hne (BitVec.eq_of_toNat_eq hzero)
  refine ⟨fun hdone => ?_, fun hne hfull => ?_, fun hne hfree hs => ?_⟩
  · rw [require_of (by simp [hdone]), s.complete_ok, State.finishBlock_of_done hdone, hdone]
  · rw [s.complete_require_of_not fun hfree => hfree (hpos hne) hfull]
  · have hleft := hpos hne
    obtain ⟨hsum, -⟩ := hs.tx htx
    have happended := appended_putPadding hs htx hleft
      { s.r with r0 := s.putPadding.mac.woff, r1 := s.mac.remain }
    have hwoff : s.putPadding.mac.woff = s.mac.tbLen := BitVec.eq_of_toNat_eq (happended.woff.trans (by omega))
    have hremain : s.putPadding.mac.remain = 0 := BitVec.eq_of_toNat_eq (happended.remain.trans (by
      rw [Nat.add_sub_cancel' hleft, Nat.sub_self]
      rfl))
    rw [require_of fun _ => hfree, s.complete_ok, State.finishBlock_of_left hleft]
    exact ⟨_, rfl, happended, hwoff, hremain, by rw [← hwoff]; rfl⟩

end Sys2Proof.Machine
end

section
/-! The invariants of the pack path along a step (44_mac_pack.md R270): the sums over the table follow from one fact, that the bytes
written parse to the table, so each command is left to keep that. -/

namespace Sys2Proof.Machine

open Safety

/-! ### Blocks that grow -/

section

variable {dir : Dir} {byteAt : Nat → Nat} {len off mid stop : Nat} {d : Desc} {ds : List Desc}

theorem wireTotal_cons (d : Desc) (ds : List Desc) : wireTotal (d :: ds) = wireSize d + wireTotal ds :=
  List.sum_cons

/-- Sub-PDUs that stand one after another end where their sizes add up to. -/
theorem parsesUpTo_stop (h : ParsesUpTo dir byteAt len off ds stop) : stop = off + wireTotal ds := by
  induction ds generalizing off with
  | nil => exact Eq.symm h
  | cons d ds ih =>
    obtain ⟨-, -, hrest⟩ := h
    rw [ih hrest, wireTotal_cons, Nat.add_assoc]

/-- The payload of a sub-PDU begins behind the sub-PDUs before it and its own header. -/
theorem parsesUpTo_soff (h : ParsesUpTo dir byteAt len off ds stop) {i : Nat} (hi : ds[i]? = some d) :
    d.soff.toNat = off + wireTotal (ds.take i) + d.hlen.toNat := by
  induction ds generalizing off i with
  | nil => cases hi
  | cons e ds ih =>
    obtain ⟨-, hopens, hrest⟩ := h
    cases i with
    | zero =>
      obtain rfl : e = d := Option.some.inj hi
      obtain ⟨-, -, hsoff, -⟩ := opens_iff_sizes.mp hopens
      exact hsoff
    | succ i => rw [ih hrest hi, List.take_succ_cons, wireTotal_cons, Nat.add_assoc off]

/-- Only padding is sized by the length of the block: any other sub-PDU parses in a longer block as well. -/
theorem opens_of_le {len' : Nat} (h : Opens dir byteAt len off d) (hle : len ≤ len') (hpad : d.lcid ≠ 63) :
    Opens dir byteAt len' off d := by
  obtain ⟨hlcid, hf, hsoff, hfits, hvalid, hsize⟩ := h
  rw [if_neg hpad] at hsize
  exact ⟨hlcid, hf, hsoff, hfits.trans hle, hvalid, by rwa [if_neg hpad]⟩

theorem parsesUpTo_of_le {len' : Nat} (h : ParsesUpTo dir byteAt len off ds stop) (hle : len ≤ len')
    (hpad : ∀ d ∈ ds, d.lcid ≠ 63) : ParsesUpTo dir byteAt len' off ds stop := by
  induction ds generalizing off with
  | nil => exact h
  | cons d ds ih =>
    obtain ⟨hmore, hopens, hrest⟩ := h
    obtain ⟨hhead, htail⟩ := List.forall_mem_cons.mp hpad
    exact ⟨hmore.trans_le hle, opens_of_le hopens hle hhead, ih hrest htail⟩

/-- A sub-PDU behind others that parse. -/
theorem parsesUpTo_concat (h : ParsesUpTo dir byteAt len off ds mid) (hmore : mid < len)
    (hopens : Opens dir byteAt len mid d) : ParsesUpTo dir byteAt len off (ds ++ [d]) (mid + wireSize d) := by
  induction ds generalizing off with
  | nil =>
    obtain rfl : off = mid := h
    exact ⟨hmore, hopens, rfl⟩
  | cons e ds ih =>
    obtain ⟨hmore', hopens', hrest⟩ := h
    exact ⟨hmore', hopens', ih hrest⟩

end

/-! ### The loop and the blocks that parse -/

theorem State.parseResult_eq_ok_iff {s : State} {len : Nat} {ds : List Desc} :
    s.parseResult ⟨0, len, []⟩ = .ok (s.commitParse ⟨len, len, ds⟩)
      ↔ s.parseLoop len ⟨0, len, []⟩ = .ok ⟨len, len, ds⟩ := by
  cases hloop : s.parseLoop len ⟨0, len, []⟩ with
  | error e => simp [State.parseResult, hloop]
  | ok c =>
    obtain ⟨hoff, hlen, -⟩ := State.parseLoop_ok (c := ⟨0, len, []⟩) (Nat.sub_le _ _) (Nat.zero_le _) hloop
    obtain ⟨off, len', list⟩ := c
    obtain rfl : off = len := hoff
    obtain rfl : len' = off := hlen
    simp only [State.parseResult, Nat.sub_zero, hloop]
    constructor
    · intro h
      have hlist : list = ds := congrArg (fun t => t.mac.sp) (Result.ok.inj h)
      rw [hlist]
    · intro h
      rw [Except.ok.inj h]

/-- The loop from byte 0 ends with a list exactly where the table has room for it and the block is the sequence of its sub-PDUs (R224). -/
theorem State.parseLoop_eq_ok_iff {s : State} {len : Nat} (hlen : len < 2 ^ 32) {ds : List Desc} :
    s.parseLoop len ⟨0, len, []⟩ = .ok ⟨len, len, ds⟩
      ↔ ds.length ≤ s.params.spCap ∧ BlockParses s.mac.dir (s.read .tb) len 0 ds := by
  have hparse {ds : List Desc} (hroom : ds.length ≤ s.params.spCap) (h : BlockParses s.mac.dir (s.read .tb) len 0 ds) :
      s.parseLoop len ⟨0, len, []⟩ = .ok ⟨len, len, ds⟩ := by
    rw [← State.parseResult_eq_ok_iff, State.parseResult_of_parsesUpTo hlen h (by simpa using hroom),
      State.parseResult_of_end (Nat.le_refl _), List.nil_append]
  constructor
  · intro h
    obtain ⟨ds', hroom, hblock⟩ | ⟨e, -, hrefused⟩ := s.parseResult_cases ⟨0, len, []⟩ (Nat.zero_le _) hlen (Nat.zero_le _)
    · have hroom' : ds'.length ≤ s.params.spCap := by simpa using hroom
      cases (hparse hroom' hblock).symm.trans h
      exact ⟨hroom', hblock⟩
    · exact nomatch hrefused.symm.trans (State.parseResult_eq_ok_iff.mpr h)
  · exact fun ⟨hroom, hblock⟩ => hparse hroom hblock

/-! ### The invariants as one fact -/

/-- A block under construction: its bytes are definite and parse to the table, and it ends where padding stands. -/
structure Packed (s : State) : Prop where
  defined : ∀ a, a < s.mac.woff.toNat → (s.peek .tb a).isSome
  padded : ∀ d ∈ s.mac.sp, d.lcid = 63 → s.mac.remain = 0
  tableFits : s.mac.sp.length ≤ s.params.spCap
  parses : BlockParses s.mac.dir (s.read .tb) s.mac.woff.toNat 0 s.mac.sp

theorem packInv_iff {s : State} : PackInv s ↔ (s.mac.mode = .tx → Packed s) := by
  have hloop := s.parseLoop_eq_ok_iff s.mac.woff.isLt (ds := s.mac.sp)
  constructor
  · intro h htx
    obtain ⟨hroom, hblock⟩ := hloop.mp (h.parses htx)
    exact ⟨h.defined htx, h.padded htx, hroom, hblock⟩
  · intro h
    constructor
    case offsets => exact fun htx i d hi => (parsesUpTo_soff (h htx).parses hi).trans (by rw [Nat.zero_add])
    case written => exact fun htx => (parsesUpTo_stop (h htx).parses).trans (Nat.zero_add _)
    case defined => exact fun htx => (h htx).defined
    case padded => exact fun htx => (h htx).padded
    case parses => exact fun htx => hloop.mpr ⟨(h htx).tableFits, (h htx).parses⟩

theorem State.peek_tb (s : State) (a : Nat) : s.peek .tb a = (s.mem.tb.get a).map BitVec.toNat := rfl

/-- A definite element that two states share reads the same in both. -/
theorem State.read_congr {s t : State} {sp : Space} {a : Nat} (hdefined : (s.peek sp a).isSome)
    (hsame : t.peek sp a = s.peek sp a) : s.read sp a = t.read sp a := by
  obtain ⟨v, hv⟩ := Option.isSome_iff_exists.mp hdefined
  exact (State.readPass_of_peek hv).trans (State.readPass_of_peek (hsame.trans hv)).symm

theorem State.hostWrite_tb (s : State) {sp : Space} (hsp : sp ≠ .tb) (a v : Nat) : (s.hostWrite sp a v).mem.tb = s.mem.tb := by
  rw [s.hostWrite_mem]
  cases sp with
  | tb => exact absurd rfl hsp
  | _ => rfl

end Sys2Proof.Machine

namespace Sys2Proof.Safety.PackInv

open Sys2Proof.Machine

variable {s t : State}

/-- Outside a transmit session nothing is asked. -/
theorem of_not_tx (hmode : t.mac.mode ≠ .tx) : PackInv t := packInv_iff.mpr fun htx => absurd htx hmode

/-- Whether the invariants hold is a matter of the capacities, MACU and `TB`. -/
theorem of_eq (hs : PackInv s) (hparams : t.params = s.params) (hmac : t.mac = s.mac) (htb : t.mem.tb = s.mem.tb) :
    PackInv t := by
  refine packInv_iff.mpr fun htx => ?_
  rw [hmac] at htx
  obtain ⟨hdefined, hpadded, hroom, hblock⟩ := packInv_iff.mp hs htx
  have hpeek (a : Nat) : t.peek .tb a = s.peek .tb a := by rw [t.peek_tb, s.peek_tb, htb]
  constructor <;> rw [hmac]
  case defined => exact fun a ha => hpeek a ▸ hdefined a ha
  case padded => exact hpadded
  case tableFits => rwa [hparams]
  case parses => exact parsesUpTo_congr (fun a ha => State.read_congr (hdefined a ha) (hpeek a)) hblock

/-! #### An appended sub-PDU -/

section

variable {lcid : BitVec 6} {f : Bool} {hlen slen : Nat} {value : Nat → Nat → Prop}

/-- Every byte of an appended sub-PDU is definite. -/
theorem isSome_of_appended (h : Appended s t lcid f hlen slen value) (hpacks : PacksAs s.mac.dir lcid f hlen slen) {a : Nat}
    (hlo : s.mac.woff.toNat ≤ a) (hhi : a < s.mac.woff.toNat + (hlen + slen)) : (t.peek .tb a).isSome := by
  obtain ⟨i, rfl⟩ := Nat.exists_eq_add_of_le hlo
  by_cases hpay : hlen ≤ i
  · obtain ⟨j, rfl⟩ := Nat.exists_eq_add_of_le hpay
    obtain ⟨v, hv, -⟩ := h.payload j (by omega)
    rw [← Nat.add_assoc, hv]
    rfl
  · obtain rfl | hone | rfl : i = 0 ∨ (i = 1 ∧ (hlen = 2 ∨ hlen = 3)) ∨ i = 2 := by
      have := hpacks.header
      omega
    · rw [Nat.add_zero, h.header]
      rfl
    · obtain ⟨rfl, htwo | hthree⟩ := hone
      · rw [h.length2 htwo]
        rfl
      · rw [(h.length3 hthree).1]
        rfl
    · rw [(h.length3 (by have := hpacks.header; omega)).2]
      rfl

/-- The bytes of an appended sub-PDU open its descriptor, in the block that ends behind it. -/
theorem opens_of_appended (h : Appended s t lcid f hlen slen value) (hpacks : PacksAs s.mac.dir lcid f hlen slen) :
    ∃ d, t.mac.sp = s.mac.sp ++ [d] ∧ d.lcid = lcid ∧ wireSize d = hlen + slen
      ∧ Opens s.mac.dir (t.read .tb) (s.mac.woff.toNat + (hlen + slen)) s.mac.woff.toNat d := by
  obtain ⟨d, hsp, rfl, rfl, hh, hl, hsoff⟩ := h.table
  have hbyte : t.read .tb s.mac.woff.toNat = 64 * d.f.toNat + d.lcid.toNat := State.readPass_of_peek h.header
  have hlcid := d.lcid.isLt
  have hf := d.f.toNat_lt
  refine ⟨d, hsp, rfl, by rw [wireSize, hh, hl], by omega, by omega, by omega, by omega, hpacks.1, ?_⟩
  have hhlen (n : BitVec 2) : d.hlen = n ↔ hlen = n.toNat := hh ▸ BitVec.toNat_inj.symm
  obtain ⟨-, hsize⟩ := hpacks
  simp only [hhlen, hl]
  split at hsize
  · next hlength =>
    rw [if_pos hlength]
    split at hsize
    · next hlong =>
      obtain ⟨hthree, -⟩ := hsize
      obtain ⟨hhigh, hlow⟩ := h.length3 hthree
      rw [if_pos hlong, show t.read .tb (s.mac.woff.toNat + 1) = slen / 256 from State.readPass_of_peek hhigh,
        show t.read .tb (s.mac.woff.toNat + 2) = slen % 256 from State.readPass_of_peek hlow]
      exact ⟨hthree, (Nat.div_add_mod slen 256).symm⟩
    · next hshort =>
      obtain ⟨htwo, -⟩ := hsize
      rw [if_neg hshort]
      exact ⟨htwo, (State.readPass_of_peek (h.length2 htwo)).symm⟩
  · next hlength =>
    rw [if_neg hlength]
    obtain ⟨hone, hfixed⟩ := hsize
    split
    · exact ⟨hone, by omega⟩
    · next hpad => exact ⟨hone, hfixed.resolve_left hpad⟩

/-- An appended sub-PDU keeps the invariants: it stands behind the sub-PDUs of the table, and none of these is padding, because
there was room for it. -/
theorem of_appended (hs : PackInv s) (hfree : s.mac.sp.length ≠ s.params.spCap) (hfits : hlen + slen ≤ s.mac.remain.toNat)
    (hpacks : PacksAs s.mac.dir lcid f hlen slen) (hpad : lcid = 63 → s.mac.remain.toNat ≤ hlen + slen)
    (h : Appended s t lcid f hlen slen value) : PackInv t := by
  refine packInv_iff.mpr fun htx => ?_
  obtain ⟨hmode, hdir, -⟩ := h.session
  obtain ⟨hdefined, hpadded, hroom, hblock⟩ := packInv_iff.mp hs (hmode ▸ htx)
  obtain ⟨d, hsp, hlcid, hwire, hopens⟩ := opens_of_appended h hpacks
  have hparams : t.params = s.params := by rw [h.others]
  have hheader := hpacks.header
  have hnopad : ∀ e ∈ s.mac.sp, e.lcid ≠ 63 := by
    intro e he h63
    have hnone : s.mac.remain.toNat = 0 := congrArg BitVec.toNat (hpadded e he h63)
    omega
  have hrest (a : Nat) (ha : a < s.mac.woff.toNat) : t.peek .tb a = s.peek .tb a := h.rest a (by omega)
  constructor
  case defined =>
    intro a ha
    rw [h.woff] at ha
    by_cases hold : a < s.mac.woff.toNat
    · exact hrest a hold ▸ hdefined a hold
    · exact isSome_of_appended h hpacks (Nat.le_of_not_lt hold) ha
  case padded =>
    rw [hsp, List.forall_mem_append, List.forall_mem_singleton]
    refine ⟨fun e he h63 => absurd h63 (hnopad e he), fun h63 => BitVec.eq_of_toNat_eq ?_⟩
    rw [h.remain, Nat.sub_eq_zero_of_le (hpad (hlcid ▸ h63))]
    rfl
  case tableFits =>
    rw [hsp, hparams, List.length_append, List.length_singleton]
    omega
  case parses =>
    rw [hsp, hdir, h.woff]
    have hread (a : Nat) (ha : a < s.mac.woff.toNat) := State.read_congr (hdefined a ha) (hrest a ha)
    have hold := parsesUpTo_of_le (parsesUpTo_congr hread hblock) (Nat.le_add_right _ (hlen + slen)) hnopad
    have hnew := parsesUpTo_concat hold (by omega) hopens
    rwa [hwire] at hnew

end

/-! #### The commands that append -/

theorem append (hm : MacInv s) (hs : PackInv s) (htx : s.mac.mode = .tx) {lcid : BitVec 6} {f : Bool} {hlen slen : Nat}
    (hpacks : PacksAs s.mac.dir lcid f hlen slen) (hpad : lcid ≠ 63) {pay : List Byte} (hpay : pay.length = slen) :
    (s.append lcid f hlen slen pay).Commits PackInv := by
  obtain ⟨-, heq⟩ | ⟨-, -, heq⟩ | ⟨hfree, hfits, heq⟩ := s.append_cases lcid f hlen slen pay
  · exact heq ▸ .raise _
  · exact heq ▸ .raise _
  · have happended := appended_putSubPdu hm htx hpacks hfits hpay (value := fun _ _ => True) (fun _ _ _ => trivial) s.r
    exact heq ▸ .ok ((hs.of_appended hfree hfits hpacks (absurd · hpad) happended).of_eq rfl rfl rfl)

/-- A control element of the direction it belongs to (44_mac_pack.md R256 to R262). -/
theorem appendCe (hm : MacInv s) (hs : PackInv s) {dir : Dir} {lcid : BitVec 6} {pay : List Byte}
    (hpacks : PacksAs dir lcid false 1 pay.length) (hpad : lcid ≠ 63) : (s.appendCe dir lcid pay).Commits PackInv :=
  .require fun htx => .require fun hdir => hs.append hm htx (hdir ▸ hpacks) hpad rfl

theorem ignoresCompletion : IgnoresCompletion PackInv := fun _ _ _ _ h => h.of_eq rfl rfl rfl

theorem finishBlock (hm : MacInv s) (hs : PackInv s) (htx : s.mac.mode = .tx)
    (hfree : 0 < s.mac.remain.toNat → s.mac.sp.length ≠ s.params.spCap) : PackInv s.finishBlock := by
  unfold State.finishBlock
  split
  · next hleft =>
    have happended := appended_putPadding hm htx hleft s.r
    exact (hs.of_appended (hfree hleft) (by omega) (packsAs_padding _ _) (fun _ => by omega) happended).of_eq rfl rfl rfl
  · exact hs

/-! #### The session -/

theorem initTx (s : State) (dir : Dir) (tbLen : Word) :
    PackInv { s with mac := { mode := .tx, dir := dir, tbLen := tbLen, remain := tbLen, woff := 0, sp := [] } } :=
  packInv_iff.mpr fun _ => ⟨fun _ ha => absurd ha (Nat.not_lt_zero _), nofun, Nat.zero_le _, rfl⟩

theorem macUnpack (hs : PackInv s) (len : Word) : NextHas PackInv (execMacUnpack len s) := by
  refine ignoresCompletion.command hs (.require fun _ => .require fun _ => ?_)
  split
  · exact .raise _
  · exact .ok (of_not_tx nofun)

theorem parseSubHeader (hm : MacInv s) (hs : PackInv s) (h : SubHeader) : NextHas PackInv (.next (s.parseSubHeader h)) :=
  .next ((State.parseSubHeader_of_no_parse hm.noParse h).symm ▸ hs)

/-! #### The commands that leave MACU alone -/

/-- The host writes `TB` only outside a transmit session (40_system_commands.md R145). -/
theorem memWr (hs : PackInv s) (space : BitVec 8) (data : BitVec 16) (addr : Word) :
    NextHas PackInv (execMemWr space data addr s) := by
  refine ignoresCompletion.command hs ?_
  split
  · exact .raise _
  · next sp _ =>
    refine .require fun _ => .require fun _ => .require fun _ => .require fun hmode => .ok ?_
    by_cases htb : sp = .tb
    · refine of_not_tx fun htx => ?_
      rw [State.hostWrite_mac] at htx
      exact (Mode.idle_or_rx_iff.mp (hmode htb)) (.inl htx)
    · exact hs.of_eq (s.hostWrite_params sp _ _) (s.hostWrite_mac sp _ _) (s.hostWrite_tb htb _ _)

theorem of_frame {i : Instr} (hi : i.writesMac = false) (hmem : i.writesMem = false) (hs : PackInv s) :
    NextHas PackInv (exec i s) := by
  intro t ht
  have hframe := Frame.of_exec i s t ht
  obtain ⟨hmac, -⟩ := hframe.mac hi
  exact hs.of_eq hframe.params hmac (by rw [hframe.mem hmem])

theorem uciGenMux (hs : PackInv s) : NextHas PackInv (execUciGenMux s) := by
  refine ignoresCompletion.command hs ?_
  split
  · exact .raise _
  · exact .ok (hs.of_eq rfl rfl rfl)

/-! #### Every instruction -/

theorem of_exec (i : Instr) (hm : MacInv s) (hs : PackInv s) : NextHas PackInv (exec i s) := by
  cases i with
  | sysReset => exact .next (of_not_tx nofun)
  | memWr space data addr => exact hs.memWr space data addr
  | macInitTx dir tbLen => exact ignoresCompletion.command hs (.require fun _ => .ok (initTx s dir tbLen))
  | macInitRx dir => exact ignoresCompletion.command hs (.ok (of_not_tx nofun))
  | macAddSdu lcid len addr =>
    refine ignoresCompletion.command hs (.require fun htx => .require fun hclass => .require fun _ => ?_)
    have hsdu := sduClass_iff.mp hclass
    exact hs.append hm htx (packsAs_sdu hsdu len) (ne_padding_of_sdu hsdu) (s.length_payload _ _)
  | macAddCrntiCe rnti => exact ignoresCompletion.command hs (hs.appendCe hm (packsAs_of_fixed rfl rfl rfl) (by decide))
  | macAddSePhrCe phr pcmax => exact ignoresCompletion.command hs (hs.appendCe hm (packsAs_of_fixed rfl rfl rfl) (by decide))
  | macAddSbsrCe lcg bs => exact ignoresCompletion.command hs (hs.appendCe hm (packsAs_of_fixed rfl rfl rfl) (by decide))
  | macAddConresCe id => exact ignoresCompletion.command hs (hs.appendCe hm (packsAs_of_fixed rfl rfl rfl) (by decide))
  | macPack =>
    exact ignoresCompletion.command hs
      (.require fun htx => .require fun hfree => .ok ((hs.finishBlock hm htx hfree).of_eq rfl rfl rfl))
  | macUnpack len => exact hs.macUnpack len
  | macRelease => exact ignoresCompletion.command hs (.ok (of_not_tx nofun))
  | uciGenMux => exact hs.uciGenMux
  | uciMux => exact ignoresCompletion.command hs (.require fun _ => .require fun _ => .ok (hs.of_eq rfl rfl rfl))
  | uciScramble => exact ignoresCompletion.command hs (.require fun _ => .require fun _ => .ok (hs.of_eq rfl rfl rfl))
  | uciDemux => exact ignoresCompletion.command hs (.require fun _ => .ok (hs.of_eq rfl rfl rfl))
  | subhdr1B r f lcid => exact hs.parseSubHeader hm _
  | subhdr2B r lcid len => exact hs.parseSubHeader hm _
  | subhdr3B r lcid len => exact hs.parseSubHeader hm _
  | _ => exact of_frame rfl rfl hs

end Sys2Proof.Safety.PackInv

namespace Sys2Proof.Machine

open Safety

/-- Settles O33: the invariants of MACU and of the pack path together are kept by every step. -/
theorem stepKeepsPackPath : Obligations.StepKeepsPackPath := by
  intro s t hm hs h
  have hboth : IgnoresCompletion fun s => MacInv s ∧ PackInv s := fun s _ _ _ ⟨hm, hs⟩ =>
    ⟨MacInv.ignoresCompletion s _ _ _ hm, PackInv.ignoresCompletion s _ _ _ hs⟩
  obtain ⟨-, ht⟩ := hboth.step (fun _ _ ⟨hm, hs⟩ => ⟨hm.of_eq rfl rfl rfl, hs.of_eq rfl rfl rfl⟩)
    (fun i s ⟨hm, hs⟩ t ht => ⟨MacInv.of_exec i s hm t ht, PackInv.of_exec i hm hs t ht⟩) s t ⟨hm, hs⟩ h
  exact ht

end Sys2Proof.Machine
end

section
/-! The position generator of UCIU (45_uci_mux.md R282 to R287): `pick`, what a symbol assigns, the loop over the symbols, and the four
lists as the classes of one assignment of the coded-bit indices. -/

namespace Sys2Proof.Machine

open Safety

/-! ### `pick` (R285) -/

theorem pick_of_le {k rem : Nat} {cands : List Nat} (h : cands.length * k ≤ rem) : pick k cands rem = cands := if_pos h

/-- Every index that the stride names exists, because `d <= (C*K)/rem`. -/
theorem stride_index_lt {k rem i : Nat} {cands : List Nat} (h : ¬cands.length * k ≤ rem) (hi : i < rem / k) :
    i * (cands.length * k / rem) < cands.length := by
  have hk : 0 < k := Nat.pos_of_ne_zero fun hk => by simp [hk] at hi
  have hstop : i * k < rem :=
    calc i * k < (i + 1) * k := Nat.mul_lt_mul_of_pos_right (Nat.lt_succ_self i) hk
      _ ≤ rem := (Nat.le_div_iff_mul_le hk).mp hi
  have hcands : 0 < cands.length := Nat.pos_of_ne_zero fun hc => h (by simp [hc])
  refine Nat.lt_of_mul_lt_mul_right (a := rem) ?_
  calc i * (cands.length * k / rem) * rem = i * (cands.length * k / rem * rem) := Nat.mul_assoc _ _ _
    _ ≤ i * (cands.length * k) := Nat.mul_le_mul_left i (Nat.div_mul_le_self _ _)
    _ = cands.length * (i * k) := Nat.mul_left_comm _ _ _
    _ < cands.length * rem := Nat.mul_lt_mul_of_pos_left hstop hcands

/-- A category that does not take every candidate takes `rem div K` of them. -/
theorem pick_eq_map {k rem : Nat} {cands : List Nat} (h : ¬cands.length * k ≤ rem) :
    pick k cands rem = (List.range (rem / k)).map fun i => cands.getD (i * (cands.length * k / rem)) 0 := by
  rw [pick, if_neg h, List.filterMap_eq_map_iff_forall_eq_some]
  intro i hi
  have hlt := stride_index_lt h (List.mem_range.mp hi)
  rw [List.getElem?_eq_getElem hlt, List.getD_eq_getElem _ _ hlt]

theorem getElem?_pick {k rem i : Nat} {cands : List Nat} (h : ¬cands.length * k ≤ rem) (hi : i < rem / k) :
    (pick k cands rem)[i]? = cands[i * (cands.length * k / rem)]? := by
  have hlt := stride_index_lt h hi
  rw [pick_eq_map h, List.getElem?_map, List.getElem?_range hi, Option.map_some, List.getD_eq_getElem _ _ hlt,
    List.getElem?_eq_getElem hlt]

theorem length_pick {k rem : Nat} {cands : List Nat} (h : ¬cands.length * k ≤ rem) :
    (pick k cands rem).length = rem / k := by
  rw [pick_eq_map h, List.length_map, List.length_range]

/-- The elements of a list at rising indices are a sublist. -/
theorem sublist_of_strictMono_index {α : Type} {xs ys : List α} {f : Nat → Nat} (hf : StrictMono f)
    (h : ∀ i, i < xs.length → xs[i]? = ys[f i]?) : xs.Sublist ys := by
  have hlt : ∀ i, i < xs.length → f i < ys.length := fun i hi => by
    have hsome := h i hi
    rw [List.getElem?_eq_getElem hi] at hsome
    exact (List.getElem?_eq_some_iff.mp hsome.symm).1
  refine List.sublist_iff_exists_fin_orderEmbedding_get_eq.mpr
    ⟨OrderEmbedding.ofStrictMono (fun i => ⟨f i, hlt i i.isLt⟩) fun i j hij => hf hij, fun i => ?_⟩
  have heq := h i i.isLt
  rw [List.getElem?_eq_getElem i.isLt, List.getElem?_eq_getElem (hlt i i.isLt)] at heq
  exact Option.some.inj heq

theorem pick_sublist (k rem : Nat) (cands : List Nat) : (pick k cands rem).Sublist cands := by
  by_cases h : cands.length * k ≤ rem
  · rw [pick_of_le h]
  · have hstride : rem ≠ 0 → 0 < cands.length * k / rem := fun hrem =>
      Nat.div_pos (Nat.le_of_not_le h) (Nat.pos_of_ne_zero hrem)
    by_cases hrem : rem = 0
    · have hnil : pick k cands rem = [] := List.eq_nil_of_length_eq_zero (by rw [length_pick h, hrem, Nat.zero_div])
      rw [hnil]
      exact List.nil_sublist cands
    · refine sublist_of_strictMono_index (f := (· * (cands.length * k / rem)))
        (fun i j hij => Nat.mul_lt_mul_of_pos_right hij (hstride hrem)) fun i hi => ?_
      exact getElem?_pick h (length_pick h ▸ hi)

/-- Settles O51: with fewer wanted bits than the candidates carry, the stride is below `C*K / rem`, so every index exists. -/
theorem pickSpreadsByTheStride : Obligations.PickSpreadsByTheStride := by
  rintro k rem d cnt cands - - - - rfl rfl
  by_cases h : cands.length * k ≤ rem
  · rw [if_pos h, if_pos h, pick_of_le h]
    exact ⟨rfl, fun i hi => by rw [Nat.mul_one]; exact ⟨hi, rfl⟩, List.Sublist.refl _⟩
  · rw [if_neg h, if_neg h]
    exact ⟨length_pick h, fun i hi => ⟨stride_index_lt h hi, getElem?_pick h hi⟩, pick_sublist k rem cands⟩

/-- The list that R285 describes is the one the model picks. -/
theorem isPick_iff {k rem : Nat} {cands out : List Nat} : IsPick k cands rem out ↔ out = pick k cands rem := by
  unfold IsPick
  by_cases h : cands.length * k ≤ rem
  · rw [if_pos h, pick_of_le h]
  · rw [if_neg h]
    constructor
    · rintro ⟨hlen, hget⟩
      refine List.ext_getElem? fun i => ?_
      by_cases hi : i < rem / k
      · exact (hget i hi).2.trans (getElem?_pick h hi).symm
      · rw [List.getElem?_eq_none (by omega), List.getElem?_eq_none (by rw [length_pick h]; omega)]
    · rintro rfl
      exact ⟨length_pick h, fun i hi => ⟨stride_index_lt h hi, getElem?_pick h hi⟩⟩


/-! ### The lists by category -/

/-- The list of a category. -/
def MuxLists.get (p : MuxLists) : Category → List Nat
  | .ack => p.pa
  | .csi1 => p.p1
  | .csi2 => p.p2
  | .ulsch => p.pu

/-- The target length of a category's list (R283). -/
def MuxConfig.target (c : MuxConfig) : Category → Nat
  | .ack => c.gack
  | .csi1 => c.g1
  | .csi2 => c.g2
  | .ulsch => c.gul

/-- The first symbol that may carry a category (R283). -/
def MuxConfig.firstSymbol (c : MuxConfig) : Category → Nat
  | .ack => c.l1
  | .csi1 => c.l1c
  | .csi2 => c.l1c
  | .ulsch => 0

/-- The categories in the order of R283, step 5. -/
def Category.all : List Category := [.ack, .csi1, .csi2, .ulsch]

theorem MuxLists.ext_get {p q : MuxLists} (h : ∀ x, p.get x = q.get x) : p = q := by
  obtain ⟨pa, p1, p2, pu⟩ := p
  obtain ⟨qa, q1, q2, qu⟩ := q
  obtain rfl : pa = qa := h .ack
  obtain rfl : p1 = q1 := h .csi1
  obtain rfl : p2 = q2 := h .csi2
  obtain rfl : pu = qu := h .ulsch
  rfl

theorem MuxLists.meets_iff {s : State} {p : MuxLists} : p.meets s.uci.config = true ↔ MeetsTargets s p := by
  simp only [MuxLists.meets, Bool.and_eq_true, decide_eq_true_eq, and_assoc]
  rfl

theorem get_assignSymbol (a : MuxAcc) (k m : Nat) (cat : Nat → Category) (x : Category) :
    (assignSymbol a k m cat).get x = a.lists.get x ++ symbolIndices a.base k m cat x := by
  cases x <;> rfl

theorem symbolIndices_eq_nil {base k m : Nat} {cat : Nat → Category} {x : Category} (h : ∀ j, cat j ≠ x) :
    symbolIndices base k m cat x = [] :=
  List.eq_nil_iff_forall_not_mem.mpr fun _ hi =>
    have ⟨j, _, hj, _⟩ := mem_symbolIndices.mp hi
    h j hj

/-- The indices of a category are the indices of the symbol whose resource element has the category. -/
theorem symbolIndices_eq_filter (base k m : Nat) (cat : Nat → Category) (x : Category) :
    symbolIndices base k m cat x = (List.range' base (k * m)).filter fun i => cat ((i - base) / k) = x := by
  induction m with
  | zero => rfl
  | succ m ih =>
    have hlast : symbolIndices base k (m + 1) cat x
        = symbolIndices base k m cat x ++ if cat m = x then List.range' (base + k * m) k else [] := by
      have hre : reIndices base k m = List.range' (base + k * m) k := by
        rw [reIndices, Nat.mul_comm m k, List.range'_eq_map_range]
      rw [symbolIndices, List.range_succ, List.filter_append, List.flatMap_append, List.filter_singleton, ← hre]
      by_cases h : cat m = x <;> simp [h, symbolIndices]
    have hblock : (List.range' (base + k * m) k).filter (fun i => cat ((i - base) / k) = x)
        = if cat m = x then List.range' (base + k * m) k else [] := by
      have helement : ∀ i ∈ List.range' (base + k * m) k, (i - base) / k = m := fun i hi => by
        obtain ⟨hlo, hhi⟩ := List.mem_range'_1.mp hi
        exact Nat.div_eq_of_lt_le (by rw [Nat.mul_comm]; omega) (by rw [Nat.mul_comm, Nat.mul_succ]; omega)
      split
      · next h => exact List.filter_eq_self.mpr fun i hi => by simpa [helement i hi] using h
      · next h => exact List.filter_eq_nil_iff.mpr fun i hi => by simpa [helement i hi] using h
    rw [hlast, ih, Nat.mul_succ, ← List.range'_append_1, List.filter_append, hblock]

/-- Every element of a list is in one category. -/
theorem sum_length_filter_category {α : Type} (xs : List α) (cat : α → Category) :
    (Category.all.map fun x => (xs.filter fun i => cat i = x).length).sum = xs.length := by
  induction xs with
  | nil => rfl
  | cons i xs ih =>
    simp only [Category.all, List.map_cons, List.map_nil, List.sum_cons, List.sum_nil, List.filter_cons,
      List.length_cons] at ih ⊢
    cases cat i <;> simp <;> omega

theorem sum_length_symbolIndices (base k m : Nat) (cat : Nat → Category) :
    (Category.all.map fun x => (symbolIndices base k m cat x).length).sum = k * m := by
  simp only [symbolIndices_eq_filter]
  rw [sum_length_filter_category, List.length_range']

/-! ### What a symbol assigns (R283, steps 1 to 5) -/

theorem mem_reservedSet {c : MuxConfig} {l m rvd j : Nat} (h : j ∈ reservedSet c l m rvd) : c.l1 ≤ l := by
  unfold reservedSet at h
  split at h
  · next hopen => exact hopen.2.1
  · cases h

theorem mem_ackSet {c : MuxConfig} {l m rvd n j : Nat} (h : j ∈ ackSet c l m (reservedSet c l m rvd) n) :
    c.l1 ≤ l ∧ n < c.gack := by
  unfold ackSet at h
  split at h
  · split at h
    · next hwant =>
      obtain ⟨i, hi⟩ := List.exists_mem_of_ne_nil _ hwant.1
      exact ⟨mem_reservedSet hi, hwant.2⟩
    · cases h
  · split at h
    · next hwant => exact hwant
    · cases h

theorem mem_csiSet {c : MuxConfig} {l n target j : Nat} {cands : List Nat} (h : j ∈ csiSet c l cands n target) :
    c.l1c ≤ l ∧ n < target := by
  unfold csiSet at h
  split at h
  · next hwant => exact ⟨hwant.1, hwant.2.2⟩
  · cases h

/-- The category of an element by the sets of R283, step 5. -/
theorem categoryOf_eq_iff {al c1 c2 : List Nat} {j : Nat} :
    (categoryOf al c1 c2 j = .ack ↔ j ∈ al) ∧ (categoryOf al c1 c2 j = .csi1 ↔ j ∉ al ∧ j ∈ c1)
      ∧ (categoryOf al c1 c2 j = .csi2 ↔ j ∉ al ∧ j ∉ c1 ∧ j ∈ c2)
      ∧ (categoryOf al c1 c2 j = .ulsch ↔ j ∉ al ∧ j ∉ c1 ∧ j ∉ c2) := by
  unfold categoryOf
  by_cases ha : j ∈ al <;> by_cases h1 : j ∈ c1 <;> by_cases h2 : j ∈ c2 <;> simp [ha, h1, h2]

/-- Symbol `l` gives its elements the categories `cat`: UCI only with UCI capacity, from the category's first symbol on, and while
its list is below the target. -/
structure SymbolAssigns (c : MuxConfig) (a b : MuxAcc) (l m mu : Nat) (cat : Nat → Category) : Prop where
  base : b.base = a.base + c.k * m
  lists : b.lists = assignSymbol a c.k m cat
  uci : ∀ j, cat j ≠ .ulsch → mu ≠ 0 ∧ c.firstSymbol (cat j) ≤ l ∧ (a.lists.get (cat j)).length < c.target (cat j)

theorem exists_symbolAssigns (c : MuxConfig) (a : MuxAcc) (l m mu : Nat) :
    ∃ cat, SymbolAssigns c a (muxSymbol c a l m mu) l m mu cat := by
  unfold muxSymbol
  split
  · next hm =>
    subst hm
    exact ⟨fun _ => .ulsch, rfl, MuxLists.ext_get fun x => by rw [get_assignSymbol]; exact (List.append_nil _).symm,
      fun _ h => absurd rfl h⟩
  · split
    · exact ⟨fun _ => .ulsch, rfl, rfl, fun _ h => absurd rfl h⟩
    · next hmu =>
      refine ⟨_, rfl, rfl, fun j hj => ⟨hmu, ?_⟩⟩
      obtain ⟨hack, hcsi1, hcsi2, -⟩ := categoryOf_eq_iff (j := j)
      cases hcat : categoryOf _ _ _ j with
      | ack => exact mem_ackSet (hack.mp hcat)
      | csi1 => exact mem_csiSet (hcsi1.mp hcat).2
      | csi2 => exact mem_csiSet (hcsi2.mp hcat).2.2
      | ulsch => exact absurd hcat hj

theorem Uci.exists_passAssigns (u : Uci) (n : Nat) :
    ∃ cat, SymbolAssigns u.config (u.muxPasses n) (u.muxPasses (n + 1)) n (u.mscAt n) (u.muciAt n) cat := by
  rw [Uci.muxPasses_succ]
  exact exists_symbolAssigns _ _ _ _ _

theorem SymbolAssigns.get_eq {c : MuxConfig} {a b : MuxAcc} {l m mu : Nat} {cat : Nat → Category}
    (h : SymbolAssigns c a b l m mu cat) (x : Category) :
    b.lists.get x = a.lists.get x ++ symbolIndices a.base c.k m cat x := by
  rw [h.lists, get_assignSymbol]

/-- A symbol before the category's first one, or without UCI capacity, adds nothing to a UCI category; nor does any symbol once the
target is reached. -/
theorem SymbolAssigns.indices_eq_nil {c : MuxConfig} {a b : MuxAcc} {l m mu : Nat} {cat : Nat → Category}
    (h : SymbolAssigns c a b l m mu cat) {x : Category} (hx : x ≠ .ulsch)
    (hclosed : ¬(mu ≠ 0 ∧ c.firstSymbol x ≤ l ∧ (a.lists.get x).length < c.target x)) :
    symbolIndices a.base c.k m cat x = [] :=
  symbolIndices_eq_nil fun j hj => hclosed (hj ▸ h.uci j (hj ▸ hx))

/-! ### The lists of the loop as the classes of one assignment (R287) -/

/-- The lists are the classes of an assignment of the indices below `n`, each in ascending order. -/
def MuxLists.SplitBy (p : MuxLists) (n : Nat) (cat : Nat → Category) : Prop :=
  ∀ x, p.get x = (List.range n).filter fun i => cat i = x

theorem SymbolAssigns.splitBy {c : MuxConfig} {a b : MuxAcc} {l m mu : Nat} {cat before : Nat → Category}
    (h : SymbolAssigns c a b l m mu cat) (ha : a.lists.SplitBy a.base before) :
    b.lists.SplitBy b.base fun i => if i < a.base then before i else cat ((i - a.base) / c.k) := by
  have hrange : List.range (a.base + c.k * m) = List.range a.base ++ List.range' a.base (c.k * m) := by
    rw [List.range_eq_range', List.range_eq_range', ← List.range'_append_1, Nat.zero_add]
  intro x
  rw [h.get_eq, ha x, symbolIndices_eq_filter, h.base, hrange, List.filter_append]
  congr 1
  · exact List.filter_congr fun i hi => congrArg (fun y => decide (y = x)) (if_pos (List.mem_range.mp hi)).symm
  · exact List.filter_congr fun i hi =>
      congrArg (fun y => decide (y = x)) (if_neg (Nat.not_lt.mpr (List.mem_range'_1.mp hi).1)).symm

theorem Uci.exists_splitBy (u : Uci) (n : Nat) : ∃ cat, (u.muxPasses n).lists.SplitBy (u.muxPasses n).base cat := by
  induction n with
  | zero => exact ⟨fun _ => .ulsch, fun x => by cases x <;> rfl⟩
  | succ n ih =>
    obtain ⟨before, hbefore⟩ := ih
    obtain ⟨cat, hcat⟩ := u.exists_passAssigns n
    exact ⟨_, hcat.splitBy hbefore⟩

namespace MuxLists.SplitBy

variable {p : MuxLists} {n : Nat} {cat : Nat → Category}

theorem mem_get (h : p.SplitBy n cat) {x : Category} {i : Nat} : i ∈ p.get x ↔ i < n ∧ cat i = x := by
  rw [h x, List.mem_filter, List.mem_range, decide_eq_true_eq]

theorem ascending (h : p.SplitBy n cat) (x : Category) : (p.get x).Pairwise (· < ·) :=
  h x ▸ List.pairwise_lt_range.filter _

theorem disjoint (h : p.SplitBy n cat) {x y : Category} (hne : x ≠ y) : List.Disjoint (p.get x) (p.get y) :=
  fun _ hx hy => hne ((h.mem_get.mp hx).2.symm.trans (h.mem_get.mp hy).2)

theorem nodup (h : p.SplitBy n cat) : (p.pa ++ p.p1 ++ p.p2 ++ p.pu).Nodup := by
  have hone : ∀ x, (p.get x).Nodup := fun x => (h.ascending x).imp Nat.ne_of_lt
  have htwo : (p.pa ++ p.p1).Nodup := (hone .ack).append (hone .csi1) (h.disjoint (x := .ack) (y := .csi1) nofun)
  have hthree : (p.pa ++ p.p1 ++ p.p2).Nodup := htwo.append (hone .csi2) <| List.disjoint_append_left.mpr
    ⟨h.disjoint (x := .ack) (y := .csi2) nofun, h.disjoint (x := .csi1) (y := .csi2) nofun⟩
  exact hthree.append (hone .ulsch) <| List.disjoint_append_left.mpr ⟨List.disjoint_append_left.mpr
    ⟨h.disjoint (x := .ack) (y := .ulsch) nofun, h.disjoint (x := .csi1) (y := .ulsch) nofun⟩,
    h.disjoint (x := .csi2) (y := .ulsch) nofun⟩

theorem sum_length (h : p.SplitBy n cat) : p.pa.length + p.p1.length + p.p2.length + p.pu.length = n := by
  have hsum := sum_length_filter_category (List.range n) cat
  simp only [← h _] at hsum
  rw [List.length_range] at hsum
  rw [← hsum]
  simp only [Category.all, List.map_cons, List.map_nil, List.sum_cons, List.sum_nil, MuxLists.get]
  omega

end MuxLists.SplitBy

/-- `base(l)` of R282 is where the loop stands before symbol `l`. -/
theorem Uci.base_muxPasses (u : Uci) (l : Nat) : (u.muxPasses l).base = symbolBase u l := (u.muxPasses_spec l).1

theorem Uci.exists_splitBy_muxLoop (u : Uci) : ∃ cat, u.muxLoop.lists.SplitBy (symbolBase u 14) cat :=
  u.base_muxPasses 14 ▸ u.exists_splitBy 14

/-- A symbol without UCI capacity gives all its indices to UL-SCH, and they stay there (R287, invariant (c)). -/
theorem Uci.mem_pu_of_no_capacity (u : Uci) {l i : Nat} (hl : l < 14) (hmuci : u.muciAt l = 0)
    (hlo : symbolBase u l ≤ i) (hhi : i < symbolBase u (l + 1)) : i ∈ u.muxLoop.lists.pu := by
  have hgrows : ∀ n, (u.muxPasses n).lists.get .ulsch ⊆ (u.muxPasses (n + 1)).lists.get .ulsch := fun n => by
    obtain ⟨cat, hcat⟩ := u.exists_passAssigns n
    rw [hcat.get_eq]
    exact List.subset_append_left _ _
  have hhere : i ∈ (u.muxPasses (l + 1)).lists.get .ulsch := by
    obtain ⟨cat, hcat⟩ := u.exists_passAssigns l
    rw [← u.base_muxPasses] at hlo hhi
    obtain ⟨j, hj, b, hb, hi⟩ := exists_element_iff.mpr ⟨hlo, hcat.base ▸ hhi⟩
    have hulsch : cat j = .ulsch := by_contra fun h => (hcat.uci j h).1 hmuci
    rw [hcat.get_eq]
    exact List.mem_append_right _ (mem_symbolIndices.mpr ⟨j, hj, hulsch, b, hb, hi⟩)
  have hstays : ∀ d, i ∈ (u.muxPasses (l + 1 + d)).lists.get .ulsch := fun d => by
    induction d with
    | zero => exact hhere
    | succ d ih => exact hgrows _ ih
  have hend := hstays (13 - l)
  rwa [show l + 1 + (13 - l) = Config.nSymb by show _ = 14; omega] at hend

/-- A UCI category whose target is 0 gets nothing. -/
theorem Uci.get_eq_nil_of_target (u : Uci) {x : Category} (hx : x ≠ .ulsch) (htarget : u.config.target x = 0) (n : Nat) :
    (u.muxPasses n).lists.get x = [] := by
  induction n with
  | zero => cases x <;> rfl
  | succ n ih =>
    obtain ⟨cat, hcat⟩ := u.exists_passAssigns n
    rw [hcat.get_eq, ih, hcat.indices_eq_nil hx (by omega), List.append_nil]

/-- The UCI categories of one starting symbol take no more coded bits than the symbols with UCI capacity carry from there on. -/
theorem Uci.sum_length_le_capacity (u : Uci) {xs : List Category} (hxs : xs.Sublist Category.all) {l0 : Nat}
    (huci : ∀ x ∈ xs, x ≠ .ulsch ∧ u.config.firstSymbol x = l0) (n : Nat)
    (hlegal : ∀ l, l < n → u.muciAt l = 0 ∨ u.muciAt l = u.mscAt l) :
    (xs.map fun x => ((u.muxPasses n).lists.get x).length).sum
      ≤ u.config.k * ((List.range n).map fun l => if l0 ≤ l then u.muciAt l else 0).sum := by
  induction n with
  | zero =>
    have hnil : ∀ x, ((u.muxPasses 0).lists.get x).length = 0 := fun x => by cases x <;> rfl
    simp [hnil]
  | succ n ih =>
    obtain ⟨cat, hcat⟩ := u.exists_passAssigns n
    have hadded : (xs.map fun x => (symbolIndices (u.muxPasses n).base u.config.k (u.mscAt n) cat x).length).sum
        ≤ u.config.k * if l0 ≤ n then u.muciAt n else 0 := by
      by_cases hopen : u.muciAt n ≠ 0 ∧ l0 ≤ n
      · rw [if_pos hopen.2, (hlegal n (Nat.lt_succ_self n)).resolve_left hopen.1,
          ← sum_length_symbolIndices (u.muxPasses n).base u.config.k (u.mscAt n) cat]
        exact (hxs.map _).sum_le_sum fun _ _ => Nat.zero_le _
      · have hnone : ∀ x ∈ xs, (symbolIndices (u.muxPasses n).base u.config.k (u.mscAt n) cat x).length = 0 :=
          fun x hx => by
            rw [hcat.indices_eq_nil (huci x hx).1 fun h => hopen ⟨h.1, (huci x hx).2 ▸ h.2.1⟩, List.length_nil]
        rw [List.sum_eq_zero fun y hy => by obtain ⟨x, hx, rfl⟩ := List.mem_map.mp hy; exact hnone x hx]
        exact Nat.zero_le _
    have hbefore := ih fun l hl => hlegal l (Nat.lt_succ_of_lt hl)
    simp only [hcat.get_eq, List.length_append]
    rw [List.sum_map_add, List.range_succ, List.map_append, List.sum_append, List.map_singleton, List.sum_singleton,
      Nat.mul_add]
    exact Nat.add_le_add hbefore hadded

end Sys2Proof.Machine
end

section
/-! `UCI.GEN_MUX` (45_uci_mux.md R283, R287): the loop generates exactly the lists that the rule writes out, and the command commits
them or refuses. -/

namespace Sys2Proof.Machine

open Safety

/-! ### The registers and tables as the rule reads them (R282) -/

theorem mscOf_eq (s : State) (l : Nat) : mscOf s l = s.uci.mscAt l := by
  show (s.uci.msc[l]?.map BitVec.toNat).getD 0 = (s.uci.msc[l]?.getD 0).toNat
  cases s.uci.msc[l]? <;> rfl

theorem muciOf_eq (s : State) (l : Nat) : muciOf s l = s.uci.muciAt l := by
  show (s.uci.muci[l]?.map BitVec.toNat).getD 0 = (s.uci.muci[l]?.getD 0).toNat
  cases s.uci.muci[l]? <;> rfl

theorem State.peek_msc (s : State) {l : Nat} (hl : l < 14) : s.peek .msc l = some (s.uci.mscAt l) := by
  show s.uci.msc[l]?.map BitVec.toNat = some (s.uci.msc[l]?.getD 0).toNat
  rw [Vector.getElem?_eq_getElem hl]
  rfl

theorem State.peek_muci (s : State) {l : Nat} (hl : l < 14) : s.peek .muci l = some (s.uci.muciAt l) := by
  show s.uci.muci[l]?.map BitVec.toNat = some (s.uci.muci[l]?.getD 0).toNat
  rw [Vector.getElem?_eq_getElem hl]
  rfl

theorem reCount_eq (s : State) : reCount s = s.uci.reTotal :=
  congrArg List.sum (List.map_congr_left fun l _ => mscOf_eq s l)

theorem uciCapacity_eq (s : State) (l0 : Nat) :
    uciCapacity s l0 = s.uci.config.k * ((List.range 14).map fun l => if l0 ≤ l then s.uci.muciAt l else 0).sum := by
  simp only [uciCapacity, muciOf_eq]
  rfl

theorem configLegal_iff (s : State) : s.uci.configLegal s.params.gCap = true ↔ MuxConfigLegal s := by
  have htables : (∀ l, l < 14 → s.peek .muci l = some 0 ∨ s.peek .muci l = s.peek .msc l)
      ↔ ∀ l, l < 14 → s.uci.muciAt l = 0 ∨ s.uci.muciAt l = s.uci.mscAt l :=
    forall₂_congr fun l hl => by rw [s.peek_muci hl, s.peek_msc hl, Option.some.injEq, Option.some.injEq]
  have hreserved : s.uci.config.grvd % s.uci.config.k = 0
      ↔ (s.uci.oack.toNat ≤ 2 → s.uci.gackrvd.toNat % (s.uci.nl.toNat * s.uci.qm.toNat) = 0) := by
    by_cases ho : s.uci.oack.toNat ≤ 2 <;> simp [Uci.config, ho]
  have hinside : (2 < s.uci.config.o ∨ s.uci.config.gack ≤ s.uci.config.grvd)
      ↔ (s.uci.oack.toNat ≤ 2 → s.uci.gack.toNat ≤ s.uci.gackrvd.toNat) := by
    by_cases ho : s.uci.oack.toNat ≤ 2
    · simp [Uci.config, ho, Nat.not_lt.mpr ho]
    · simp [Uci.config, ho, Nat.lt_of_not_le ho]
  simp only [MuxConfigLegal, htables, ← hreserved, ← hinside]
  simp only [Uci.configLegal, Bool.and_eq_true, Bool.or_eq_true, decide_eq_true_eq, List.contains_iff_mem,
    List.all_eq_true, List.mem_range, and_assoc]
  rfl

/-! ### The generated lists (R283) -/

/-- The indices of the elements that a test names are those of a category that the same elements have. -/
theorem indicesWhere_eq (s : State) (l : Nat) {f : Nat → Bool} {cat : Nat → Category} {x : Category}
    (h : ∀ j, f j = true ↔ cat j = x) :
    indicesWhere s l f = symbolIndices (symbolBase s.uci l) s.uci.config.k (s.uci.mscAt l) cat x := by
  have hf : f = fun j => decide (cat j = x) := funext fun j => by rw [Bool.eq_iff_iff, h, decide_eq_true_eq]
  rw [hf, ← mscOf_eq]
  rfl

theorem ite_isPick_iff {p : Prop} [Decidable p] {k rem : Nat} {cands out : List Nat} :
    (if p then IsPick k cands rem out else out = []) ↔ out = if p then pick k cands rem else [] := by
  by_cases h : p <;> simp only [h, if_true, if_false, isPick_iff]

theorem elementsOutside_append (s : State) (l : Nat) (xs ys : List Nat) :
    elementsOutside s l (xs ++ ys) = (List.range (s.uci.mscAt l)).filter fun j => j ∉ xs ∧ j ∉ ys := by
  simp only [elementsOutside, mscOf_eq, List.mem_append, not_or]

theorem symbolSets_iff {s : State} {l rvd : Nat} {p : MuxLists} {rl al c1 c2 : List Nat} :
    SymbolSets s l p rvd rl al c1 c2 ↔
      rl = reservedSet s.uci.config l (s.uci.mscAt l) rvd
      ∧ al = ackSet s.uci.config l (s.uci.mscAt l) rl p.pa.length
      ∧ c1 = csiSet s.uci.config l ((List.range (s.uci.mscAt l)).filter fun j => j ∉ al ∧ j ∉ rl) p.p1.length s.uci.config.g1
      ∧ c2 = csiSet s.uci.config l ((List.range (s.uci.mscAt l)).filter fun j => j ∉ al ∧ j ∉ c1) p.p2.length
          s.uci.config.g2 := by
  have hack : ((s.uci.oack.toNat ≤ 2 → al = if rl ≠ [] ∧ p.pa.length < s.uci.gack.toNat
          then pick (bitsPerRe s) rl (s.uci.gack.toNat - p.pa.length) else [])
        ∧ (2 < s.uci.oack.toNat → al = if s.uci.l1.toNat ≤ l ∧ p.pa.length < s.uci.gack.toNat
          then pick (bitsPerRe s) (List.range (s.uci.mscAt l)) (s.uci.gack.toNat - p.pa.length) else []))
      ↔ al = ackSet s.uci.config l (s.uci.mscAt l) rl p.pa.length := by
    unfold ackSet
    by_cases ho : s.uci.oack.toNat ≤ 2
    · rw [if_pos (show s.uci.config.o ≤ 2 from ho)]
      exact ⟨fun h => h.1 ho, fun h => ⟨fun _ => h, fun h2 => absurd ho (Nat.not_le.mpr h2)⟩⟩
    · rw [if_neg (show ¬s.uci.config.o ≤ 2 from ho)]
      exact ⟨fun h => h.2 (Nat.lt_of_not_le ho), fun h => ⟨fun h2 => absurd h2 ho, fun _ => h⟩⟩
  rw [← hack]
  constructor
  · rintro ⟨h1, h2, h3, h4, h5⟩
    simp only [ite_isPick_iff, elementsOutside_append, mscOf_eq] at h1 h2 h3 h4 h5
    exact ⟨h1, ⟨h2, h3⟩, h4, h5⟩
  · rintro ⟨h1, ⟨h2, h3⟩, h4, h5⟩
    constructor <;> simp only [ite_isPick_iff, elementsOutside_append, mscOf_eq]
    exacts [h1, h2, h3, h4, h5]

/-- A symbol without UCI capacity as the rule writes it. -/
theorem assignSymbol_ulsch {s : State} {l : Nat} {a : MuxAcc} (hbase : a.base = symbolBase s.uci l) :
    assignSymbol a s.uci.config.k (s.uci.mscAt l) (fun _ => .ulsch)
      = { a.lists with pu := a.lists.pu ++ indicesWhere s l fun _ => true } := by
  have hnone : ∀ x, x ≠ .ulsch → symbolIndices a.base s.uci.config.k (s.uci.mscAt l) (fun _ => .ulsch) x = [] :=
    fun x hx => symbolIndices_eq_nil fun _ => hx.symm
  rw [indicesWhere_eq s l (cat := fun _ => .ulsch) (x := .ulsch) fun _ => ⟨fun _ => rfl, fun _ => rfl⟩, ← hbase,
    assignSymbol, hnone .ack nofun, hnone .csi1 nofun, hnone .csi2 nofun]
  simp only [List.append_nil]

/-- A symbol with UCI capacity as the rule writes it. -/
theorem eq_assignSymbol_iff {s : State} {l : Nat} {a : MuxAcc} (hbase : a.base = symbolBase s.uci l) {p : MuxLists}
    {al c1 c2 : List Nat} : p = assignSymbol a s.uci.config.k (s.uci.mscAt l) (categoryOf al c1 c2) ↔
      p.pa = a.lists.pa ++ indicesWhere s l (fun j => j ∈ al)
      ∧ p.p1 = a.lists.p1 ++ indicesWhere s l (fun j => j ∉ al ∧ j ∈ c1)
      ∧ p.p2 = a.lists.p2 ++ indicesWhere s l (fun j => j ∉ al ∧ j ∉ c1 ∧ j ∈ c2)
      ∧ p.pu = a.lists.pu ++ indicesWhere s l (fun j => j ∉ al ∧ j ∉ c1 ∧ j ∉ c2) := by
  obtain ⟨pa, p1, p2, pu⟩ := p
  rw [assignSymbol, MuxLists.mk.injEq, hbase]
  have hack := fun j => (categoryOf_eq_iff (al := al) (c1 := c1) (c2 := c2) (j := j)).1
  have hcsi1 := fun j => (categoryOf_eq_iff (al := al) (c1 := c1) (c2 := c2) (j := j)).2.1
  have hcsi2 := fun j => (categoryOf_eq_iff (al := al) (c1 := c1) (c2 := c2) (j := j)).2.2.1
  have hulsch := fun j => (categoryOf_eq_iff (al := al) (c1 := c1) (c2 := c2) (j := j)).2.2.2
  rw [indicesWhere_eq s l fun j => decide_eq_true_iff.trans (hack j).symm,
    indicesWhere_eq s l fun j => decide_eq_true_iff.trans (hcsi1 j).symm,
    indicesWhere_eq s l fun j => decide_eq_true_iff.trans (hcsi2 j).symm,
    indicesWhere_eq s l fun j => decide_eq_true_iff.trans (hulsch j).symm]

/-- What the rule writes of a symbol is one pass of the loop. -/
theorem assignsSymbol_iff {s : State} {l : Nat} {a : MuxAcc} (hbase : a.base = symbolBase s.uci l) {p : MuxLists}
    {rvd : Nat} : AssignsSymbol s l a.lists a.mRvd p rvd ↔
      p = (muxSymbol s.uci.config a l (s.uci.mscAt l) (s.uci.muciAt l)).lists
      ∧ rvd = (muxSymbol s.uci.config a l (s.uci.mscAt l) (s.uci.muciAt l)).mRvd := by
  unfold AssignsSymbol muxSymbol
  rw [mscOf_eq, muciOf_eq]
  by_cases hm : s.uci.mscAt l = 0
  · simp only [hm, if_true, ne_eq, not_true, false_implies, and_true, true_implies]
  by_cases hmu : s.uci.muciAt l = 0
  · simp only [hm, hmu, if_true, if_false, ne_eq, not_true, not_false_eq_true, false_implies, true_implies, and_true,
      true_and, assignSymbol_ulsch hbase]
  · simp only [hm, hmu, if_false, ne_eq, not_false_eq_true, false_implies, true_implies, true_and, symbolSets_iff,
      eq_assignSymbol_iff hbase]
    constructor
    · rintro ⟨rl, al, c1, c2, ⟨rfl, rfl, rfl, rfl⟩, hrvd, hlists⟩
      exact ⟨hlists, hrvd⟩
    · rintro ⟨hlists, hrvd⟩
      exact ⟨_, _, _, _, ⟨rfl, rfl, rfl, rfl⟩, hrvd, hlists⟩

/-- The lists that R283 describes are those of the loop, and no others. -/
theorem generatesPositions_iff {s : State} {q : MuxLists} : GeneratesPositions s q ↔ q = s.uci.muxLoop.lists := by
  constructor
  · rintro ⟨p, rvd, hp, hrvd, hstep, rfl⟩
    have hpass : ∀ l, l ≤ 14 → p l = (s.uci.muxPasses l).lists ∧ rvd l = (s.uci.muxPasses l).mRvd := fun l => by
      induction l with
      | zero => exact fun _ => ⟨hp, hrvd⟩
      | succ l ih =>
        intro hl
        obtain ⟨hlists, hreserved⟩ := ih (Nat.le_of_succ_le hl)
        have hassign := hstep l hl
        rw [hlists, hreserved, assignsSymbol_iff (s.uci.base_muxPasses l), ← Uci.muxPasses_succ] at hassign
        exact hassign
    exact (hpass 14 (Nat.le_refl 14)).1
  · rintro rfl
    refine ⟨fun l => (s.uci.muxPasses l).lists, fun l => (s.uci.muxPasses l).mRvd, rfl, rfl, fun l _ => ?_, rfl⟩
    rw [assignsSymbol_iff (s.uci.base_muxPasses l), ← Uci.muxPasses_succ]
    exact ⟨rfl, rfl⟩

/-! ### The command -/

/-- Whether the command completes is decided by three tests: the configuration, the resource elements, the lists. -/
theorem genMux_of_not_legal {s : State} (h : ¬MuxConfigLegal s) : s.uci.genMux s.params.gCap = .error .badOperand := by
  have hbad : (!s.uci.configLegal s.params.gCap) = true := by
    rw [Bool.not_eq_true', ← Bool.not_eq_true, configLegal_iff]
    exact h
  rw [Uci.genMux, if_pos hbad]

theorem genMux_of_legal {s : State} (h : MuxConfigLegal s) : s.uci.genMux s.params.gCap =
    if s.uci.reTotal = s.uci.nofre.toNat ∧ s.uci.muxLoop.lists.meets s.uci.config then .ok s.uci.muxLoop.lists
    else .error .reMismatch := by
  rw [Uci.genMux, (configLegal_iff s).mpr h, if_neg (show ¬(!true) = true by decide)]
  by_cases hre : s.uci.reTotal = s.uci.nofre.toNat
  · simp only [hre, ne_eq, not_true, if_false, true_and]
  · simp only [hre, ne_eq, not_false_eq_true, if_true, false_and, if_false]

theorem genMux_of_mismatch {s : State} (h : MuxConfigLegal s)
    (hmiss : reCount s = s.uci.nofre.toNat → ¬MeetsTargets s s.uci.muxLoop.lists) :
    s.uci.genMux s.params.gCap = .error .reMismatch := by
  rw [genMux_of_legal h, if_neg]
  rintro ⟨hre, hmeets⟩
  exact hmiss ((reCount_eq s).trans hre) (MuxLists.meets_iff.mp hmeets)

theorem genMux_of_meets {s : State} (h : MuxConfigLegal s) (hre : reCount s = s.uci.nofre.toNat)
    (hmeets : MeetsTargets s s.uci.muxLoop.lists) : s.uci.genMux s.params.gCap = .ok s.uci.muxLoop.lists := by
  rw [genMux_of_legal h, if_pos ⟨(reCount_eq s).symm.trans hre, MuxLists.meets_iff.mpr hmeets⟩]

theorem exec_uciGenMux_of_error {s : State} {e : Code} (h : s.uci.genMux s.params.gCap = .error e) :
    exec .uciGenMux s = .next (refusedWith s e) := by
  simp only [exec, execUciGenMux, h]
  rfl

/-- The state with the position lists committed (R283). -/
def State.withPositions (s : State) (p : MuxLists) : State :=
  { s with
    mem := s.mem.putPositions p
    uci := { s.uci with valid := true, gtot := word s.uci.codedBits, gstate := .empty }
    r := { r0 := s.uci.gack, r1 := s.uci.gcsi1, r2 := s.uci.gcsi2, r3 := s.uci.gulsch } }

theorem exec_uciGenMux_of_ok {s : State} {p : MuxLists} (h : s.uci.genMux s.params.gCap = .ok p) :
    exec .uciGenMux s = .next (completedAs s (s.withPositions p)) := by
  simp only [exec, execUciGenMux, h]
  rfl

/-- The command raises no code but its two, so a completion that reports `OK` committed the lists of the loop. -/
theorem exec_uciGenMux_ok {s t : State} (h : exec .uciGenMux s = .next t) (hok : t.status = .ok) :
    s.uci.genMux s.params.gCap = .ok s.uci.muxLoop.lists ∧ t = completedAs s (s.withPositions s.uci.muxLoop.lists) := by
  cases hgen : s.uci.genMux s.params.gCap with
  | ok p =>
    obtain ⟨-, rfl, -⟩ := Uci.genMux_ok hgen
    exact ⟨rfl, (Host.Outcome.next.inj ((exec_uciGenMux_of_ok hgen).symm.trans h)).symm⟩
  | error e =>
    obtain rfl := Host.Outcome.next.inj ((exec_uciGenMux_of_error hgen).symm.trans h)
    have hcode : e ≠ .ok := by
      unfold Uci.genMux at hgen
      split at hgen
      · exact Except.error.inj hgen ▸ nofun
      · split at hgen
        · exact Except.error.inj hgen ▸ nofun
        · split at hgen
          · cases hgen
          · exact Except.error.inj hgen ▸ nofun
    exact absurd hok hcode

/-- The position memories hold the lists and nothing else. -/
theorem peek_withPositions {s : State} (hlegal : MuxConfigLegal s) (m : Nat) :
    (s.withPositions s.uci.muxLoop.lists).peek .posAck m = s.uci.muxLoop.lists.pa[m]?
    ∧ (s.withPositions s.uci.muxLoop.lists).peek .posCsi1 m = s.uci.muxLoop.lists.p1[m]?
    ∧ (s.withPositions s.uci.muxLoop.lists).peek .posCsi2 m = s.uci.muxLoop.lists.p2[m]?
    ∧ (s.withPositions s.uci.muxLoop.lists).peek .posUlsch m = s.uci.muxLoop.lists.pu[m]? := by
  have hlt : ∀ x, s.uci.muxLoop.lists.Holds x → x < 2 ^ 32 := fun x hx =>
    ((s.uci.holds_muxLoop x).mp hx).trans (Uci.codedBits_lt ((configLegal_iff s).mpr hlegal))
  exact ⟨Bank.get_ofList_words (fun x hx => hlt x (.inl hx)) m, Bank.get_ofList_words (fun x hx => hlt x (.inr (.inl hx))) m,
    Bank.get_ofList_words (fun x hx => hlt x (.inr (.inr (.inl hx)))) m,
    Bank.get_ofList_words (fun x hx => hlt x (.inr (.inr (.inr hx)))) m⟩

/-- Lists that meet the targets use every coded bit once. -/
theorem targets_sum_eq {s : State} (h : MeetsTargets s s.uci.muxLoop.lists) :
    s.uci.gack.toNat + s.uci.gcsi1.toNat + s.uci.gcsi2.toNat + s.uci.gulsch.toNat = symbolBase s.uci 14 := by
  obtain ⟨cat, hsplit⟩ := s.uci.exists_splitBy_muxLoop
  obtain ⟨hack, hcsi1, hcsi2, hulsch⟩ := h
  rw [← hack, ← hcsi1, ← hcsi2, ← hulsch, hsplit.sum_length]

/-- Lists that meet the targets keep to the UCI capacity from the starting symbols on. -/
theorem targets_le_capacity {s : State} (h : MeetsTargets s s.uci.muxLoop.lists) (hlegal : MuxConfigLegal s) :
    s.uci.gack.toNat ≤ uciCapacity s s.uci.l1.toNat
      ∧ s.uci.gcsi1.toNat + s.uci.gcsi2.toNat ≤ uciCapacity s s.uci.l1csi.toNat := by
  obtain ⟨-, -, -, htables, -⟩ := hlegal
  have hmuci : ∀ l, l < 14 → s.uci.muciAt l = 0 ∨ s.uci.muciAt l = s.uci.mscAt l := fun l hl => by
    simpa only [s.peek_muci hl, s.peek_msc hl, Option.some.injEq] using htables l hl
  obtain ⟨hack, hcsi1, hcsi2, -⟩ := h
  constructor
  · have hle := s.uci.sum_length_le_capacity (xs := [.ack]) (l0 := s.uci.l1.toNat) (by decide)
      (List.forall_mem_singleton.mpr ⟨nofun, rfl⟩) 14 hmuci
    rw [← hack, uciCapacity_eq]
    exact hle
  · have hle := s.uci.sum_length_le_capacity (xs := [.csi1, .csi2]) (l0 := s.uci.l1csi.toNat) (by decide)
      (List.forall_mem_cons.mpr ⟨⟨nofun, rfl⟩, List.forall_mem_singleton.mpr ⟨nofun, rfl⟩⟩) 14 hmuci
    rw [← hcsi1, ← hcsi2, uciCapacity_eq]
    exact hle

/-- Settles O52: behind a legal configuration every refusal is a count of resource elements or lists that miss a target; and lists
that meet all targets use every coded bit once, within the UCI capacity. -/
theorem genMuxRefusals : Obligations.GenMuxRefusals := by
  intro s
  refine ⟨fun h => exec_uciGenMux_of_error (genMux_of_not_legal h),
    fun h hre => exec_uciGenMux_of_error (genMux_of_mismatch h fun heq => absurd heq hre),
    fun h hsum => exec_uciGenMux_of_error (genMux_of_mismatch h fun _ hmeets => hsum (targets_sum_eq hmeets)),
    fun h q hq hmiss => exec_uciGenMux_of_error (genMux_of_mismatch h fun _ => generatesPositions_iff.mp hq ▸ hmiss),
    fun h hcap => exec_uciGenMux_of_error (genMux_of_mismatch h fun _ hmeets => ?_)⟩
  have hle := targets_le_capacity hmeets h
  omega

/-- With all UCI targets 0 the loop gives every index to UL-SCH, in order. -/
theorem muxLoop_lists_without_uci {s : State} (hack : s.uci.gack = 0) (hcsi1 : s.uci.gcsi1 = 0) (hcsi2 : s.uci.gcsi2 = 0) :
    s.uci.muxLoop.lists = ⟨[], [], [], List.range (symbolBase s.uci 14)⟩ := by
  have hpa : s.uci.muxLoop.lists.pa = [] :=
    s.uci.get_eq_nil_of_target (x := .ack) nofun (congrArg BitVec.toNat hack) 14
  have hp1 : s.uci.muxLoop.lists.p1 = [] :=
    s.uci.get_eq_nil_of_target (x := .csi1) nofun (congrArg BitVec.toNat hcsi1) 14
  have hp2 : s.uci.muxLoop.lists.p2 = [] :=
    s.uci.get_eq_nil_of_target (x := .csi2) nofun (congrArg BitVec.toNat hcsi2) 14
  obtain ⟨cat, hsplit⟩ := s.uci.exists_splitBy_muxLoop
  have hsub : (s.uci.muxLoop.lists.get .ulsch).Sublist (List.range (symbolBase s.uci 14)) := by
    rw [hsplit .ulsch]
    exact List.filter_sublist
  have hpu : s.uci.muxLoop.lists.pu = List.range (symbolBase s.uci 14) := hsub.eq_of_length <| by
    have hsum := hsplit.sum_length
    rw [hpa, hp1, hp2, List.length_nil, Nat.zero_add] at hsum
    exact (hsum.trans List.length_range.symm : s.uci.muxLoop.lists.pu.length = _)
  rw [← hpu]
  refine MuxLists.ext_get fun x => ?_
  cases x with
  | ack => exact hpa
  | csi1 => exact hp1
  | csi2 => exact hp2
  | ulsch => rfl

/-- Settles O53: the lists that the rule writes out are those of the loop, which the command commits where it does not refuse. -/
theorem genMuxCommitsItsLists : Obligations.GenMuxCommitsItsLists := by
  refine ⟨fun s => generatesPositions_iff.mpr rfl, fun s p hlegal hre hp hmeets => ?_,
    fun s hlegal hre hack _ hcsi1 hcsi2 hulsch => ?_⟩
  · obtain rfl := generatesPositions_iff.mp hp
    exact ⟨_, exec_uciGenMux_of_ok (genMux_of_meets hlegal hre hmeets), rfl, fun m _ => (peek_withPositions hlegal m).1,
      fun m _ => (peek_withPositions hlegal m).2.1, fun m _ => (peek_withPositions hlegal m).2.2.1,
      fun m _ => (peek_withPositions hlegal m).2.2.2⟩
  · have hlists := muxLoop_lists_without_uci hack hcsi1 hcsi2
    have hmeets : MeetsTargets s s.uci.muxLoop.lists := by
      rw [MeetsTargets, hlists, hack, hcsi1, hcsi2, List.length_range, hulsch]
      exact ⟨rfl, rfl, rfl, rfl⟩
    refine ⟨_, exec_uciGenMux_of_ok (genMux_of_meets hlegal hre hmeets), rfl, fun m hm => ?_⟩
    obtain ⟨-, -, -, hpu⟩ := peek_withPositions hlegal m
    refine hpu.trans ?_
    rw [hlists, List.getElem?_range hm]

/-- Settles O54: the four lists are the classes of one assignment of the indices below `G_tot`. -/
theorem genMuxPartitionsTheCodedBits : Obligations.GenMuxPartitionsTheCodedBits := by
  intro s t h hok
  obtain ⟨hgen, rfl⟩ := exec_uciGenMux_ok h hok
  obtain ⟨hlegal, -, hmeets⟩ := Uci.genMux_ok hgen
  have hgtot : (word s.uci.codedBits).toNat = s.uci.codedBits := toNat_word_of_lt (Uci.codedBits_lt hlegal)
  have htargets := MuxLists.meets_iff.mp hmeets
  have hpeek := peek_withPositions ((configLegal_iff s).mp hlegal)
  obtain ⟨cat, hsplit⟩ := s.uci.exists_splitBy_muxLoop
  refine ⟨s.uci.muxLoop.lists.pa, s.uci.muxLoop.lists.p1, s.uci.muxLoop.lists.p2, s.uci.muxLoop.lists.pu,
    ⟨fun m => (hpeek m).1, fun m => (hpeek m).2.1, fun m => (hpeek m).2.2.1, fun m => (hpeek m).2.2.2⟩, hsplit.nodup,
    fun i => ?_, htargets, (targets_sum_eq htargets).trans hgtot.symm, fun l hl hmuci i hlo hhi => ?_,
    hsplit.ascending .ack, hsplit.ascending .csi1, hsplit.ascending .csi2, hsplit.ascending .ulsch⟩
  · show _ ↔ i < (word s.uci.codedBits).toNat
    rw [hgtot, ← s.uci.holds_muxLoop]
    simp only [List.mem_append, or_assoc, MuxLists.Holds]
  · exact s.uci.mem_pu_of_no_capacity hl (Option.some.inj ((s.peek_muci hl).symm.trans hmuci)) hlo hhi

end Sys2Proof.Machine
end

section
/-! Placing and sorting (45_uci_mux.md R292, R299): `UCI.MUX` writes every stream to the positions of its category, `UCI.DEMUX` reads
them back from there. -/

namespace Sys2Proof.Machine

open Safety

/-! ### Writes to different addresses -/

/-- Of writes to different addresses each one is found again. -/
theorem Bank.get_setAll_of_mem {w : Nat} {xs : List (Nat × BitVec w)} {b : Bank w} {a : Nat} {v : BitVec w}
    (hnodup : (xs.map Prod.fst).Nodup) (hmem : (a, v) ∈ xs) : (b.setAll xs).get a = some v := by
  have hkeeps : ∀ (ys : List (Nat × BitVec w)) (b : Bank w), a ∉ ys.map Prod.fst → (b.setAll ys).get a = b.get a := by
    intro ys
    induction ys with
    | nil => exact fun _ _ => rfl
    | cons y ys ih =>
      intro b ha
      rw [List.map_cons, List.mem_cons, not_or] at ha
      exact (ih (b.set y.1 y.2) ha.2).trans (Bank.get_set_other b y.2 ha.1)
  induction xs generalizing b with
  | nil => cases hmem
  | cons x xs ih =>
    rw [List.map_cons, List.nodup_cons] at hnodup
    cases hmem with
    | head => exact (hkeeps xs _ hnodup.1).trans (Bank.get_set_same b a v)
    | tail _ htail => exact ih hnodup.2 htail

/-! ### Valid positions -/

/-- With valid positions the position memories hold the lists of the loop, which meet the targets (R283, 10_state.md R46). -/
theorem positions_of_valid {s : State} (hs : UciInv s) (hvalid : s.uci.valid = true) :
    MeetsTargets s s.uci.muxLoop.lists
    ∧ (∀ m, s.peek .posAck m = s.uci.muxLoop.lists.pa[m]?) ∧ (∀ m, s.peek .posCsi1 m = s.uci.muxLoop.lists.p1[m]?)
    ∧ (∀ m, s.peek .posCsi2 m = s.uci.muxLoop.lists.p2[m]?) ∧ (∀ m, s.peek .posUlsch m = s.uci.muxLoop.lists.pu[m]?) := by
  obtain ⟨p, hgen, hpos⟩ := hs.positions hvalid
  obtain ⟨-, rfl, hmeets⟩ := Uci.genMux_ok hgen
  exact ⟨MuxLists.meets_iff.mp hmeets, hpos⟩

/-- A space of `n` positions: element `m < n` holds a position below `total`. -/
def HoldsPositions (s : State) (pos : Space) (n total : Nat) : Prop := ∀ m, m < n → ∃ p, s.peek pos m = some p ∧ p < total

/-- Each position memory holds as many positions as its category has coded bits, all below `G_tot`. -/
theorem holdsPositions_of_valid {s : State} (hs : UciInv s) (hvalid : s.uci.valid = true) :
    HoldsPositions s .posAck s.uci.gack.toNat s.uci.gtot.toNat ∧ HoldsPositions s .posCsi1 s.uci.gcsi1.toNat s.uci.gtot.toNat
    ∧ HoldsPositions s .posCsi2 s.uci.gcsi2.toNat s.uci.gtot.toNat
    ∧ HoldsPositions s .posUlsch s.uci.gulsch.toNat s.uci.gtot.toNat := by
  obtain ⟨⟨nack, ncsi1, ncsi2, nulsch⟩, hack, hcsi1, hcsi2, hulsch⟩ := positions_of_valid hs hvalid
  have hlist : ∀ {pos : Space} {n : Nat} {l : List Nat}, (∀ m, s.peek pos m = l[m]?) → l.length = n →
      (∀ x ∈ l, s.uci.muxLoop.lists.Holds x) → HoldsPositions s pos n s.uci.gtot.toNat := by
    intro pos n l hpos hn hholds m hm
    have hlt : m < l.length := hn ▸ hm
    refine ⟨l[m], (hpos m).trans (List.getElem?_eq_getElem hlt), ?_⟩
    rw [hs.total hvalid, ← Uci.holds_muxLoop]
    exact hholds _ (List.getElem_mem hlt)
  exact ⟨hlist hack nack fun _ => .inl, hlist hcsi1 ncsi1 fun _ h => .inr (.inl h),
    hlist hcsi2 ncsi2 fun _ h => .inr (.inr (.inl h)), hlist hulsch nulsch fun _ h => .inr (.inr (.inr h))⟩

/-! ### `UCI.MUX` (R292) -/

/-- No two symbols of the four streams go to the same index (R287). -/
theorem nodup_muxStream {s : State} (hs : UciInv s) (hvalid : s.uci.valid = true) :
    (s.muxStream.map Prod.fst).Nodup := by
  obtain ⟨⟨nack, ncsi1, ncsi2, nulsch⟩, hack, hcsi1, hcsi2, hulsch⟩ := positions_of_valid hs hvalid
  obtain ⟨cat, hsplit⟩ := s.uci.exists_splitBy_muxLoop
  simp only [State.muxStream, List.map_append, State.map_fst_stream .bAck hack nack,
    State.map_fst_stream .bCsi1 hcsi1 ncsi1, State.map_fst_stream .bCsi2 hcsi2 ncsi2,
    State.map_fst_stream .bUlsch hulsch nulsch]
  exact hsplit.nodup

/-- `GOUT` after `UCI.MUX`. -/
def State.muxedBank (s : State) : Bank 2 := Bank.empty.setAll s.muxStream

/-- The symbol of a stream stands at its position after `UCI.MUX`: no other write goes there, and a symbol of at most two bits fits. -/
theorem get_muxedBank {s : State} (hs : UciInv s) (hvalid : s.uci.valid = true) {pos src : Space} {n m p : Nat}
    (hstream : s.stream pos src n ⊆ s.muxStream) (hwidth : src.width ≤ 2) (hm : m < n) (hp : s.peek pos m = some p) :
    (s.muxedBank.get p).map BitVec.toNat = some (s.readPass 1 src m) := by
  have hmem : (p, BitVec.ofNat 2 (s.readPass 1 src m)) ∈ s.stream pos src n :=
    List.mem_map.mpr ⟨m, List.mem_range.mpr hm, Prod.ext (State.readPass_of_peek hp) rfl⟩
  have hfits : s.readPass 1 src m < 2 ^ 2 :=
    (s.readPass_lt 1 src m).trans_le (Nat.pow_le_pow_right (by decide) hwidth)
  rw [State.muxedBank, Bank.get_setAll_of_mem (nodup_muxStream hs hvalid) (hstream hmem), Option.map_some,
    BitVec.toNat_ofNat, Nat.mod_eq_of_lt hfits]

theorem State.stream_subset_muxStream (s : State) :
    s.stream .posAck .bAck s.uci.gack.toNat ⊆ s.muxStream ∧ s.stream .posCsi1 .bCsi1 s.uci.gcsi1.toNat ⊆ s.muxStream
    ∧ s.stream .posCsi2 .bCsi2 s.uci.gcsi2.toNat ⊆ s.muxStream
    ∧ s.stream .posUlsch .bUlsch s.uci.gulsch.toNat ⊆ s.muxStream := by
  simp only [State.muxStream, List.append_assoc]
  exact ⟨List.subset_append_left _ _, List.subset_append_of_subset_right _ (List.subset_append_left _ _),
    List.subset_append_of_subset_right _ (List.subset_append_of_subset_right _ (List.subset_append_left _ _)),
    List.subset_append_of_subset_right _ (List.subset_append_of_subset_right _ (List.subset_append_right _ _))⟩

/-- The state with the sequence placed (R292). -/
def State.withMuxed (s : State) : State :=
  { s with
    mem := { s.mem with gout := s.muxedBank }
    uci := { s.uci with gstate := .muxed }
    r := { s.r with r0 := s.uci.gtot } }

theorem exec_uciMux (s : State) : exec .uciMux s = .next (s.complete (require s.uci.valid .badState
    (require (2 < s.uci.oack.toNat → s.ackPlain) .badOperand (.ok s.withMuxed)))) := rfl

theorem State.ackPlain_iff (s : State) : s.ackPlain = true ↔ ∀ m, m < s.uci.gack.toNat → s.read .bAck m < 2 := by
  simp only [State.ackPlain, List.all_eq_true, List.mem_range, decide_eq_true_eq]

/-- A `UCI.MUX` that reports `OK` had valid positions and placed the streams. -/
theorem exec_uciMux_ok {s t : State} (h : exec .uciMux s = .next t) (hok : t.status = .ok) :
    s.uci.valid = true ∧ t = completedAs s s.withMuxed := by
  obtain rfl := Host.Outcome.next.inj ((exec_uciMux s).symm.trans h)
  by_cases hvalid : s.uci.valid = true
  · rw [require_of hvalid] at hok ⊢
    by_cases hplain : 2 < s.uci.oack.toNat → s.ackPlain = true
    · rw [require_of hplain]
      exact ⟨hvalid, rfl⟩
    · rw [require_of_not hplain] at hok
      cases hok
  · rw [require_of_not hvalid] at hok
    cases hok

/-- The copy of a stream's element reads a value the element may be read as. -/
theorem State.mayRead_readPass (s : State) (pass : Nat) (sp : Space) (a : Nat) : MayRead s sp a (s.readPass pass sp a) :=
  ⟨s.readPass_lt pass sp a, fun _ h => State.readPass_of_peek h⟩

/-- Settles O55: the positions of the four streams are all different, so every write of R292 stands. -/
theorem muxPlacesTheStreams : Obligations.MuxPlacesTheStreams := by
  intro s
  rw [exec_uciMux]
  refine ⟨fun hinvalid => ?_, fun hvalid hmany ⟨m, v, hm, hv, hmarker⟩ => ?_, fun hvalid hs hplain => ?_⟩
  · rw [s.complete_require_of_not (hinvalid ▸ Bool.false_ne_true)]
  · have hmarked : ¬(2 < s.uci.oack.toNat → s.ackPlain = true) := fun h => by
      have hlt := s.ackPlain_iff.mp (h hmany) m hm
      rw [State.read, State.readPass_of_peek hv] at hlt
      exact Nat.not_lt.mpr hmarker hlt
    rw [require_of hvalid, s.complete_require_of_not hmarked]
  · have hbits : 2 < s.uci.oack.toNat → s.ackPlain = true := fun hmany => s.ackPlain_iff.mpr fun m hm => by
      obtain ⟨v, hv, hlt⟩ := hplain.resolve_left (Nat.not_le.mpr hmany) m hm
      rwa [State.read, State.readPass_of_peek hv]
    rw [require_of hvalid, require_of hbits]
    have hplaced : ∀ {pos src : Space} {n : Nat}, HoldsPositions s pos n s.uci.gtot.toNat →
        s.stream pos src n ⊆ s.muxStream → src.width ≤ 2 →
        ∀ m, m < n → ∃ p v, s.peek pos m = some p ∧ MayRead s src m v ∧ s.withMuxed.peek .gout p = some v :=
      fun hpos hstream hwidth m hm =>
        have ⟨p, hp, _⟩ := hpos m hm
        ⟨p, _, hp, s.mayRead_readPass 1 _ m, get_muxedBank hs hvalid hstream hwidth hm hp⟩
    obtain ⟨hack, hcsi1, hcsi2, hulsch⟩ := holdsPositions_of_valid hs hvalid
    obtain ⟨sack, scsi1, scsi2, sulsch⟩ := s.stream_subset_muxStream
    refine ⟨_, rfl, rfl, hplaced hack sack (by decide), hplaced hcsi1 scsi1 (by decide),
      hplaced hcsi2 scsi2 (by decide), hplaced hulsch sulsch (by decide), fun i hi => ?_⟩
    exact Option.isSome_map.trans (Bank.isSome_get_setAll (.inr (hs.mem_muxStream hvalid hi)))

/-! ### `UCI.DEMUX` (R299) -/

/-- The state with the received values sorted (R299). -/
def State.withSorted (s : State) : State :=
  { s with
    mem := { s.mem with
      lAck := Bank.ofList (s.gathered .posAck s.uci.gack.toNat)
      lCsi1 := Bank.ofList (s.gathered .posCsi1 s.uci.gcsi1.toNat)
      lCsi2 := Bank.ofList (s.gathered .posCsi2 s.uci.gcsi2.toNat)
      lUlsch := Bank.ofList (s.gathered .posUlsch s.uci.gulsch.toNat) }
    r := { s.r with r0 := s.uci.gtot } }

theorem exec_uciDemux (s : State) :
    exec .uciDemux s = .next (s.complete (require s.uci.valid .badState (.ok s.withSorted))) := rfl

/-- Element `m` of a category is the value of `LIN` at position `m`. -/
theorem get_ofList_gathered {s : State} {pos : Space} {n m p : Nat} (hm : m < n) (hp : s.peek pos m = some p) :
    ((Bank.ofList (s.gathered pos n)).get m).map BitVec.toNat = some (s.read .lin p) := by
  have hpos : s.read pos m = p := State.readPass_of_peek hp
  have hfits : s.read .lin p < 2 ^ 8 := s.readPass_lt 0 .lin p
  rw [Bank.get_ofList, State.gathered, List.getElem?_map, List.getElem?_range hm, Option.map_some, Option.map_some, hpos,
    BitVec.toNat_ofNat, Nat.mod_eq_of_lt hfits]

/-- Settles O57: each element is the value of `LIN` at the position that the category's memory holds. -/
theorem demuxSortsTheValues : Obligations.DemuxSortsTheValues := by
  intro s
  rw [exec_uciDemux]
  refine ⟨fun hinvalid => ?_, fun hvalid hs => ?_⟩
  · rw [s.complete_require_of_not (hinvalid ▸ Bool.false_ne_true)]
  · rw [require_of hvalid]
    have hsorted : ∀ {pos : Space} {n : Nat}, HoldsPositions s pos n s.uci.gtot.toNat → ∀ m, m < n → ∃ p v,
        s.peek pos m = some p ∧ MayRead s .lin p v
          ∧ ((Bank.ofList (s.gathered pos n)).get m).map BitVec.toNat = some v :=
      fun hpos m hm =>
        have ⟨p, hp, _⟩ := hpos m hm
        ⟨p, _, hp, s.mayRead_read .lin p, get_ofList_gathered hm hp⟩
    obtain ⟨hack, hcsi1, hcsi2, hulsch⟩ := holdsPositions_of_valid hs hvalid
    exact ⟨_, rfl, rfl, hsorted hack, hsorted hcsi1, hsorted hcsi2, hsorted hulsch⟩

/-! ### The round trip (R299) -/

/-- Settles O58: `UCI.DEMUX` reads each index where `UCI.MUX` wrote it, because both go through the same positions. -/
theorem demuxInvertsMux : Obligations.DemuxInvertsMux := by
  intro s t u v hs hmux hok huci _ hpos hlin hdemux
  obtain ⟨hvalid, rfl⟩ := exec_uciMux_ok hmux hok
  have hready : u.uci.valid = true := huci ▸ hvalid
  rw [exec_uciDemux, require_of hready] at hdemux
  obtain rfl := Host.Outcome.next.inj hdemux
  have hback : ∀ {pos src : Space} {n n' : Nat}, HoldsPositions s pos n s.uci.gtot.toNat → n' = n →
      (∀ m, u.peek pos m = s.peek pos m) → s.stream pos src n ⊆ s.muxStream → src.width ≤ 2 →
      ∀ m x, m < n → s.peek src m = some x →
        ((Bank.ofList (u.gathered pos n')).get m).map BitVec.toNat = some x := by
    rintro pos src n _ hholds rfl hsame hstream hwidth m x hm hx
    obtain ⟨p, hp, hlt⟩ := hholds m hm
    have hplaced : (s.muxedBank.get p).map BitVec.toNat = some x := by
      rw [get_muxedBank hs hvalid hstream hwidth hm hp, State.readPass_of_peek hx]
    have hreceived : u.read .lin p = x := State.readPass_of_peek ((hlin p hlt).trans hplaced)
    rw [get_ofList_gathered hm ((hsame m).trans hp), hreceived]
  obtain ⟨hack, hcsi1, hcsi2, hulsch⟩ := holdsPositions_of_valid hs hvalid
  obtain ⟨sack, scsi1, scsi2, sulsch⟩ := s.stream_subset_muxStream
  refine ⟨rfl, hback hack ?_ (hpos .posAck (.inl rfl)) sack (by decide),
    hback hcsi1 ?_ (hpos .posCsi1 (.inr (.inl rfl))) scsi1 (by decide),
    hback hcsi2 ?_ (hpos .posCsi2 (.inr (.inr (.inl rfl)))) scsi2 (by decide),
    hback hulsch ?_ (hpos .posUlsch (.inr (.inr (.inr rfl)))) sulsch (by decide)⟩
  all_goals rw [huci]; rfl

end Sys2Proof.Machine
end

section
/-! `UCI.SCRAMBLE` (45_uci_mux.md R296): the loop passes every index once, in ascending order. -/

namespace Sys2Proof.Machine

open Safety

/-! ### The loop -/

/-- An index the loop has not reached is as it was. -/
theorem State.get_scrambled_of_le (s : State) {n i : Nat} (h : n ≤ i) : (s.scrambled n).get i = s.mem.gout.get i := by
  induction n with
  | zero => rfl
  | succ n ih => rw [State.scrambled_succ, Bank.get_set_other _ _ (Nat.ne_of_gt h), ih (Nat.le_of_succ_le h)]

/-- An index the loop has passed keeps the value it got. -/
theorem State.get_scrambled_of_lt (s : State) {n i : Nat} (h : i < n) :
    (s.scrambled n).get i = some (BitVec.ofNat 2 (s.scrambleAt (s.scrambled i) i)) := by
  induction n with
  | zero => exact absurd h (Nat.not_lt_zero i)
  | succ n ih =>
    rw [State.scrambled_succ]
    by_cases hi : i = n
    · rw [hi, Bank.get_set_same]
    · rw [Bank.get_set_other _ _ hi, ih (by omega)]

/-- The symbol that the loop meets at an index is the one placed there. -/
theorem State.goutAt_scrambled {s : State} {i v : Nat} (h : s.peek .gout i = some v) :
    s.goutAt (s.scrambled i) i = v := by
  rw [State.goutAt, s.get_scrambled_of_le (Nat.le_refl i)]
  exact State.readPass_of_peek h

/-! ### The values by the symbol at the index -/

section

variable {s : State} {n i : Nat}

theorem State.get_scrambled_placeholder (hi : i < n) (h : s.peek .gout i = some 2) :
    ((s.scrambled n).get i).map BitVec.toNat = some 1 := by
  rw [s.get_scrambled_of_lt hi, State.scrambleAt, if_pos (State.goutAt_scrambled h)]
  rfl

/-- A repetition copies what the index before it holds by then, which no later pass changes. -/
theorem State.get_scrambled_repetition (hi : i < n) (hpos : 0 < i) (h : s.peek .gout i = some 3) :
    (s.scrambled n).get i = (s.scrambled n).get (i - 1) := by
  have hbefore : i - 1 < i := Nat.sub_lt hpos Nat.one_pos
  have hcopied := s.get_scrambled_of_lt hbefore
  rw [s.get_scrambled_of_lt hi, s.get_scrambled_of_lt (hbefore.trans hi), State.scrambleAt, State.goutAt_scrambled h,
    if_neg (by decide), if_pos rfl, s.goutAt_of_get hcopied, BitVec.ofNat_toNat, BitVec.setWidth_eq]

theorem State.get_scrambled_bit {b : Nat} (hi : i < n) (h : s.peek .gout i = some b) (hb : b < 2) :
    ((s.scrambled n).get i).map BitVec.toNat = some (b ^^^ s.read .scr i) := by
  have hbit : b ^^^ s.read .scr i < 2 ^ 1 := Nat.xor_lt_two_pow hb (s.readPass_lt 0 .scr i)
  rw [s.get_scrambled_of_lt hi, State.scrambleAt, State.goutAt_scrambled h, if_neg (by omega), if_neg (by omega),
    Option.map_some, BitVec.toNat_ofNat, Nat.mod_eq_of_lt (by omega)]

end

/-! ### The command -/

/-- The state with the sequence scrambled (R296). -/
def State.withScrambled (s : State) : State :=
  { s with
    mem := { s.mem with gout := s.scrambled s.uci.gtot.toNat }
    uci := { s.uci with gstate := .scrambled }
    r := { s.r with r0 := s.uci.gtot } }

theorem exec_uciScramble (s : State) :
    exec .uciScramble s = .next (s.complete (require (s.uci.valid = true ∧ s.uci.gstate = .muxed) .badState
      (require (¬(0 < s.uci.gtot.toNat ∧ s.read .gout 0 = 3)) .badOperand (.ok s.withScrambled)))) := rfl

/-- Settles O56: each index is written in its own pass, from the symbol placed there and, for a repetition, from the index before it,
which has its final value. -/
theorem scrambleResolvesTheMarkers : Obligations.ScrambleResolvesTheMarkers := by
  intro s
  rw [exec_uciScramble]
  refine ⟨fun hstate => ?_, fun hvalid hstate hsome hrep => ?_, fun hvalid hstate hdef hplain => ?_⟩
  · rw [s.complete_require_of_not hstate]
  · have hread : s.read .gout 0 = 3 := State.readPass_of_peek hrep
    rw [require_of ⟨hvalid, hstate⟩, s.complete_require_of_not (not_not.mpr ⟨hsome, hread⟩)]
  · have hpeek : 0 < s.uci.gtot.toNat → s.peek .gout 0 = some (s.read .gout 0) := fun hsome => by
      obtain ⟨v, hv⟩ := Option.isSome_iff_exists.mp (hdef 0 hsome)
      rw [State.read, State.readPass_of_peek hv, hv]
    have hfirst : ¬(0 < s.uci.gtot.toNat ∧ s.read .gout 0 = 3) := fun ⟨hsome, hrep⟩ =>
      hplain ⟨hsome, hrep ▸ hpeek hsome⟩
    rw [require_of ⟨hvalid, hstate⟩, require_of hfirst]
    refine ⟨_, rfl, rfl, fun i hi => congrArg (Option.map BitVec.toNat) (s.get_scrambled_of_le hi), fun i hi =>
      ⟨State.get_scrambled_placeholder hi, fun hrep => ?_,
        fun b hb hbit => ⟨_, s.mayRead_read .scr i, State.get_scrambled_bit hi hb hbit⟩, ?_⟩⟩
    · have hpos : 0 < i := Nat.pos_of_ne_zero fun hzero => hplain ⟨Nat.zero_lt_of_lt hi, hzero ▸ hrep⟩
      exact congrArg (Option.map BitVec.toNat) (State.get_scrambled_repetition hi hpos hrep)
    · obtain ⟨v, hget, hv⟩ := State.scrambled_bit (fun hrep => hfirst ⟨Nat.zero_lt_of_lt hi, hrep⟩) s.uci.gtot.toNat i hi
      have hvalue : s.withScrambled.peek .gout i = some v.toNat := congrArg (Option.map BitVec.toNat) hget
      exact (Nat.le_one_iff_eq_zero_or_eq_one.mp hv).imp (fun h => hvalue.trans (congrArg some h))
        fun h => hvalue.trans (congrArg some h)

end Sys2Proof.Machine
end

section
/-! Errors (60_exceptions.md R322, R326): what a fatal error writes, the lock it sets, and that a command which does not complete
`OK` writes nothing but what it reports. -/

namespace Sys2Proof.Machine

/-! ### The fatal error and its lock (R326) -/

/-- The host reads the cause of a fatal error behind the flag in bit 0 (10_state.md R32). -/
theorem State.csrRead_fatal {s : State} {c : FatalCause} (h : s.fatal = some c) :
    s.csrRead 0x02 = word (1 + 256 * c.code.value) := by
  show word (fatalValue s.fatal) = _
  rw [h]
  rfl

/-- The lock lets the reset word pass, whose rule is the reset. -/
theorem entry_resetWord (s : State) : entry resetWord s = .next s.softReset :=
  entry_of_decode (.inr rfl) specWordsDecodeToTheirCommands.2.1

/-- Settles O8: the first cause is the one the lock keeps; behind it a word is turned away, or it is the reset. -/
theorem fatalErrorsLockTheBlock : Obligations.FatalErrorsLockTheBlock := by
  refine ⟨fun s c hfree => ?_, fun s c w rest hidle hword hlock => ?_⟩
  · have hcomplete := State.complete_fatal_of_unlocked hfree c
    exact ⟨hcomplete, State.csrRead_fatal (congrArg State.fatal hcomplete)⟩
  · have hstep : step s = entry w (s.issue rest) := (step_of_no_parse hidle).trans (stepCommand_of_cons hword)
    have hlocked : (s.issue rest).fatal ≠ none := ne_of_eq_of_ne hlock (Option.some_ne_none c)
    refine ⟨fun hw => hstep.trans (entry_of_locked hlocked hw), ?_⟩
    rintro rfl
    exact ⟨_, hstep.trans (entry_resetWord _), State.softReset_fatal _, State.softReset_status _⟩

/-! ### A refused command (R322) -/

/-- From `s` to `t` a command did nothing but report: `STATUS`, the count of the command, and for a fatal error `FATAL`. -/
def OnlyReports (s t : State) : Prop :=
  t = { s with status := t.status, cseq := s.cseq + 1, fatal := t.fatal } ∧ (t.fatal ≠ s.fatal → t.status = .fVariant)

theorem OnlyReports.raise (s : State) (e : Code) : OnlyReports s (s.complete (.raise e)) :=
  ⟨rfl, fun hfatal => absurd rfl hfatal⟩

theorem OnlyReports.fatal {s : State} {c : FatalCause} (hc : c.code = .fVariant) : OnlyReports s (s.complete (.fatal c)) :=
  ⟨rfl, fun _ => hc⟩

theorem FatalCause.code_cases (c : FatalCause) : c.code = .fVariant ∨ c.code = .fState := by
  cases c with
  | variant => exact .inl rfl
  | state => exact .inr rfl

/-- A command word never decodes to a sub-header (30_encoding.md R104, R111). -/
theorem isSubHeader_of_decode {w : CmdWord} {i : Instr} (h : decode w = .ok i) : i.isSubHeader = false := by
  have hencode := encode_of_decode h
  cases i with
  | subhdr1B | subhdr2B | subhdr3B => cases hencode
  | _ => rfl

/-- The completion commits the writes of a rule only with `OK`; of the fatal errors no rule ends in any but `F_VARIANT` (R195). -/
theorem onlyReports_of_exec {i : Instr} {s t : State} (hsub : i.isSubHeader = false) (hexec : exec i s = .next t)
    (hstatus : t.status ≠ .ok) : OnlyReports s t := by
  by_cases hreset : i = .sysReset
  · subst hreset
    obtain rfl := Host.Outcome.next.inj hexec
    exact absurd s.softReset_status hstatus
  obtain ⟨res, hres⟩ := exec_eq_complete s hsub hreset
  obtain rfl := Host.Outcome.next.inj (hres.symm.trans hexec)
  cases res with
  | ok t => exact absurd rfl hstatus
  | raise e => exact .raise s e
  | fatal c => exact .fatal (onlyGrantAccessorsAreFatal i s _ hsub hres c.code_cases).1

theorem onlyReports_of_entry {w : CmdWord} {s t : State} (hentry : entry w s = .next t) (hstatus : t.status ≠ .ok) :
    OnlyReports s t := by
  obtain ⟨-, -, hlocked⟩ | ⟨-, -, hillegal⟩ | ⟨-, i, hdecode, hrun⟩ := entry_cases w s
  · obtain rfl := Host.Outcome.next.inj (hlocked.symm.trans hentry)
    exact .raise s .locked
  · obtain rfl := Host.Outcome.next.inj (hillegal.symm.trans hentry)
    exact .raise s .illegalCmd
  · exact onlyReports_of_exec (isSubHeader_of_decode hdecode) (hrun.symm.trans hentry) hstatus

/-- Settles O9: a refusal by the rule, by the lock or by the decoder only reports. -/
theorem refusedCommandsHaveNoSideEffects : Obligations.RefusedCommandsHaveNoSideEffects :=
  ⟨fun _ _ _ => onlyReports_of_exec, fun _ _ _ => onlyReports_of_entry⟩

end Sys2Proof.Machine
end
